-- ==== Sys2Proof/Word.lean ====
section
/-! DEFINITION. The word types of the block: bytes, 16-bit values and the three frame shapes
(spec/00_scope.md R8, spec/30_encoding.md R64, R66, R68). -/

namespace Sys2Proof

/-- A byte: 8 bits, numbered 7 down to 0 (R8). -/
abbrev Byte := BitVec 8

/-- A 16-bit unsigned value: the timeout, a concentration, a telemetry sum (R8, R9). -/
abbrev Word16 := BitVec 16

/-- A Command Frame or a Response Frame: 9 bytes, byte 0 first on the wire (R64, R66). -/
abbrev Frame9 := Vector Byte 9

/-- A Telemetry Frame: 32 bytes, byte 0 first on the wire (R68). -/
abbrev Frame32 := Vector Byte 32

end Sys2Proof
end

