-- ==== Sys2Proof/Config.lean ====
section
/-! DEFINITION. The configuration constants of spec/00_scope.md R6, each a named constant with the
source's value, and the parameters of R7, which the spec leaves OPEN: those are constants with no
body, so nothing can be proved about their values beyond the domain R7 states. -/

namespace Sys2Proof.Config

/-- Bytes in a Command Frame (R6). -/
abbrev CMD_LEN : Nat := 9

/-- Bytes in a Response Frame (R6). -/
abbrev RSP_LEN : Nat := 9

/-- Command Frame byte 0 (R6). -/
def START : Byte := 0xFF

/-- Command Frame byte 1 (R6). -/
def DEVID : Byte := 0x01

/-- Command code of the dust query (R6). -/
def QUERY_CMD : Byte := 0x86

/-- Command code of enter sleep and exit sleep (R6). -/
def SLEEP_CMD : Byte := 0xA7

/-- Parameter of enter sleep (R6). -/
def SLEEP_PARAM : Byte := 0x01

/-- Parameter of exit sleep (R6). -/
def WAKE_PARAM : Byte := 0x00

/-- Ticks of settle delay after an enter-sleep transmission (R6). -/
def SLEEP_SETTLE : Nat := 20

/-- Ticks of settle delay after an exit-sleep transmission (R6). -/
def WAKE_SETTLE : Nat := 45

/-- Bytes in a Telemetry Frame (R6). -/
abbrev FRAME_LEN : Nat := 32

/-- The Telemetry Frame header, byte 0 first (R6). -/
def HDR : Vector Byte 4 := #v[0x42, 0x4D, 0x00, 0x1C]

/-- Failed sync attempts one call tolerates (R6). -/
def FAIL_BUDGET : Nat := 3

/-- Nominal period of a Timebase tick, in milliseconds (R6). The model keeps the order of ticks and
no time, so no rule reads it (R141, 93_implementation_defined.md I10). -/
def TICK_PERIOD_MS : Nat := 1

/-- The response byte that holds the echoed sleep or wake parameter (R6, decision D18). -/
abbrev ECHO_INDEX : Fin 9 := 2

/-- How far the RX queue's capacity lies above the least value R7 allows. OPEN (D28): no value. -/
opaque rxDepthExcess : Nat

/-- Capacity of the RX queue in bytes: any integer of at least 32 (R7, decision D28). -/
def RX_DEPTH : Nat := rxDepthExcess + 32

/-- How far the TX queue's capacity lies above the least value R7 allows. OPEN (D27): no value. -/
opaque txDepthExcess : Nat

/-- Capacity of the TX queue in bytes: any integer of at least 1 (R7, decision D27). -/
def TX_DEPTH : Nat := txDepthExcess + 1

/-- Reset value of the `TIMEOUT` register pair. OPEN (R7, decision D13): no value. -/
opaque TIMEOUT_RESET : Word16

/-- Command code that `SET_UPLOAD_MODE` sends. OPEN (R7, decision D19): no value. -/
opaque UPLOAD_MODE_CMD : Byte

/-- The draw `underflow_byte`: the byte a synchronizer pop of an empty RX queue returns, free at
each occurrence (R7, R88, decision D9). Applied to `State.draws`, which counts the occurrences. -/
opaque underflowByte : Nat → Byte

end Sys2Proof.Config
end

