-- ==== Sys2Proof/Syntax.lean ====
section
/-! DEFINITION. The operations (spec/30_encoding.md R60), the host register names and their access
kinds (spec/10_state.md R20), the result kinds (R71), the bus transactions and the host program
notation (R72). -/

namespace Sys2Proof

/-- The eight operations, one constructor per row of the opcode table (R60). An operation has no
operand fields of its own: its operands are registers, latched at issue (R61). -/
inductive Instr where
  /-- `SEND_COMMAND`, opcode 0x01 (R100). -/
  | sendCommand
  /-- `READ_RESPONSE`, opcode 0x02 (R101). -/
  | readResponse
  /-- `QUERY_DUST`, opcode 0x03 (R102). -/
  | queryDust
  /-- `ENTER_SLEEP`, opcode 0x04 (R103). -/
  | enterSleep
  /-- `EXIT_SLEEP`, opcode 0x05 (R104). -/
  | exitSleep
  /-- `SET_UPLOAD_MODE`, opcode 0x06 (R105). -/
  | setUploadMode
  /-- `SYNC_FRAME`, opcode 0x07 (R120). -/
  | syncFrame
  /-- `EXTRACT_FRAME`, opcode 0x08 (R130). -/
  | extractFrame
  deriving DecidableEq, Repr

/-- Why a byte is no operation. -/
inductive DecodeError where
  /-- The byte is one of 0x00 and 0x09..0xFF (R62). -/
  | undefinedOpcode (v : Byte)
  deriving DecidableEq, Repr

/-- One row of the opcode table: the byte selects `instr` when it equals `pattern` under `mask` (R60). -/
structure OpcodeRow where
  instr    : Instr
  mnemonic : String
  pattern  : Byte
  mask     : Byte
  deriving DecidableEq, Repr

/-- The 59 host-visible registers and `OP`'s place among them (R20). -/
inductive RegName where
  | op | status | result | timeoutH | timeoutL | cmd | p0 | p1 | p2 | p3 | p4 | mode
  | pm1_0H | pm1_0L | pm2_5H | pm2_5L | pm10H | pm10L
  | resp (i : Fin 9)
  | frameOut (i : Fin 32)
  deriving DecidableEq, Repr

/-- The access kinds of R20's table. -/
inductive Access where
  /-- Write only: reads return 0x00. -/
  | wo
  /-- Per bit: read only, or write one to clear (R22). -/
  | mixed
  /-- Read and write. -/
  | rw
  /-- Read only: writes are ignored. -/
  | ro
  deriving DecidableEq, Repr

/-- The result kinds of R71. -/
inductive ResultKind where
  | checkOk | checksumError | timeoutError | commandRejected | notAvailable | unexpectedReply
  deriving DecidableEq, Repr

/-- One host bus transaction: `W aa dd` or `R aa` (R72). -/
inductive Transaction where
  | write (addr data : Byte)
  | read (addr : Byte)
  deriving DecidableEq, Repr

/-- One line of a host program in the notation of R72: a bus line, a pseudo-instruction, or a stimulus. -/
inductive ProgramLine where
  /-- `WR <reg>, <imm8>`. -/
  | wr (r : RegName) (imm : Byte)
  /-- `RD <reg>`. -/
  | rd (r : RegName)
  /-- `RD <reg> -> <name>`: the same transaction, naming the value read. -/
  | rdNamed (r : RegName) (name : String)
  /-- `ISSUE <mnemonic>`. -/
  | issue (i : Instr)
  /-- `WAIT_IDLE`: the loop that reads `STATUS` until the byte read has bit 0 clear. -/
  | waitIdle
  /-- `CALL <mnemonic>`: `ISSUE`, then `WAIT_IDLE`. -/
  | call (i : Instr)
  /-- `SET_TIMEOUT <imm16>`. -/
  | setTimeout (t : Word16)
  /-- `CLEAR_STATUS`. -/
  | clearStatus
  /-- The stimulus `RX <bytes>`. -/
  | rx (bytes : List Byte)
  /-- The stimulus `TICK n`. -/
  | tick (n : Nat)
  deriving DecidableEq, Repr

/-- What a host program is run by, one step of an agent at a time: the lines of R72 expand to these. -/
inductive ProgramOp where
  /-- One bus transaction of the Host. -/
  | bus (t : Transaction)
  /-- One turn of the loop `loop: RD STATUS -> s; if s[0] = 1 goto loop`. -/
  | waitIdle
  /-- One byte of an `RX` line. -/
  | rx (b : Byte)
  /-- One tick of a `TICK` line. -/
  | tick
  deriving DecidableEq, Repr

end Sys2Proof
end

