-- ==== Sys2Proof/WellFormed.lean ====
section
/-! DEFINITION. Well-formedness of the syntax. An operation carries no field, so every operation is
well formed (spec/30_encoding.md R60, R61); a table row may ask for no bit outside its mask. -/

namespace Sys2Proof

/-- Every operation is well formed: the opcode byte has no sub-fields, register fields or
immediates (R60). -/
def Instr.wellFormed : Instr → Bool
  | .sendCommand | .readResponse | .queryDust | .enterSleep
  | .exitSleep | .setUploadMode | .syncFrame | .extractFrame => true

/-- A row whose pattern has a bit outside its mask could never be selected. -/
def OpcodeRow.wellFormed (r : OpcodeRow) : Bool := r.pattern &&& r.mask == r.pattern

end Sys2Proof
end

