-- ==== Sys2Proof/Decode.lean ====
section
/-! DEFINITION. The encodings of spec/30_encoding.md: the opcode map (R60, R62) read from its table,
the encoder beside it, the register address map (spec/10_state.md R20), and the result codes (R71). -/

namespace Sys2Proof

/-- The opcode table of R60: "A decoder selects an operation by `OP == value` with mask 0xFF." -/
def opcodeTable : List OpcodeRow :=
  [ ⟨.sendCommand,   "SEND_COMMAND",    0x01, 0xFF⟩,
    ⟨.readResponse,  "READ_RESPONSE",   0x02, 0xFF⟩,
    ⟨.queryDust,     "QUERY_DUST",      0x03, 0xFF⟩,
    ⟨.enterSleep,    "ENTER_SLEEP",     0x04, 0xFF⟩,
    ⟨.exitSleep,     "EXIT_SLEEP",      0x05, 0xFF⟩,
    ⟨.setUploadMode, "SET_UPLOAD_MODE", 0x06, 0xFF⟩,
    ⟨.syncFrame,     "SYNC_FRAME",      0x07, 0xFF⟩,
    ⟨.extractFrame,  "EXTRACT_FRAME",   0x08, 0xFF⟩ ]

/-- A row selects a byte that equals its pattern under its mask (R60). -/
def OpcodeRow.selects (r : OpcodeRow) (v : Byte) : Bool := v &&& r.mask == r.pattern

/-- The operation a byte written to `OP` selects, or the byte rejected by name (R60, R62). -/
def decode (v : Byte) : Except DecodeError Instr :=
  match opcodeTable.find? (fun r => r.selects v) with
  | some r => .ok r.instr
  | none   => .error (.undefinedOpcode v)

/-- The byte that issues an operation (R60). -/
def encode : Instr → Byte
  | .sendCommand   => 0x01
  | .readResponse  => 0x02
  | .queryDust     => 0x03
  | .enterSleep    => 0x04
  | .exitSleep     => 0x05
  | .setUploadMode => 0x06
  | .syncFrame     => 0x07
  | .extractFrame  => 0x08

/-- The operation in a table word of `nbits` bits. An operation is one byte (R63), so a word with a
bit above bit 7 is none. -/
def decodeTableWord (nbits w : Nat) : Option Instr :=
  let v := w % 2 ^ nbits
  if v < 256 then (decode (BitVec.ofNat 8 v)).toOption else none

/-- The address of a register (R20). -/
def RegName.addr : RegName → Byte
  | .op         => 0x00
  | .status     => 0x01
  | .result     => 0x02
  | .timeoutH   => 0x03
  | .timeoutL   => 0x04
  | .cmd        => 0x05
  | .p0         => 0x06
  | .p1         => 0x07
  | .p2         => 0x08
  | .p3         => 0x09
  | .p4         => 0x0A
  | .mode       => 0x0B
  | .pm1_0H     => 0x0C
  | .pm1_0L     => 0x0D
  | .pm2_5H     => 0x0E
  | .pm2_5L     => 0x0F
  | .pm10H      => 0x10
  | .pm10L      => 0x11
  | .resp i     => 0x20 + BitVec.ofNat 8 i.val
  | .frameOut i => 0x40 + BitVec.ofNat 8 i.val

/-- The register at an address, or none where R20 maps nothing (R42). -/
def RegName.ofAddr (a : Byte) : Option RegName :=
  match a.toNat with
  | 0x00 => some .op
  | 0x01 => some .status
  | 0x02 => some .result
  | 0x03 => some .timeoutH
  | 0x04 => some .timeoutL
  | 0x05 => some .cmd
  | 0x06 => some .p0
  | 0x07 => some .p1
  | 0x08 => some .p2
  | 0x09 => some .p3
  | 0x0A => some .p4
  | 0x0B => some .mode
  | 0x0C => some .pm1_0H
  | 0x0D => some .pm1_0L
  | 0x0E => some .pm2_5H
  | 0x0F => some .pm2_5L
  | 0x10 => some .pm10H
  | 0x11 => some .pm10L
  | n =>
    if hr : 0x20 ≤ n ∧ n ≤ 0x28 then some (.resp ⟨n - 0x20, by omega⟩)
    else if hf : 0x40 ≤ n ∧ n ≤ 0x5F then some (.frameOut ⟨n - 0x40, by omega⟩)
    else none

/-- The access kind of a register (R20). -/
def RegName.access : RegName → Access
  | .op => .wo
  | .status => .mixed
  | .timeoutH | .timeoutL | .cmd | .p0 | .p1 | .p2 | .p3 | .p4 | .mode => .rw
  | .result | .pm1_0H | .pm1_0L | .pm2_5H | .pm2_5L | .pm10H | .pm10L
  | .resp _ | .frameOut _ => .ro

/-- The value `RESULT` takes for a kind (R71). -/
def ResultKind.code : ResultKind → Byte
  | .checkOk         => 0x00
  | .checksumError   => 0x01
  | .timeoutError    => 0x02
  | .commandRejected => 0x03
  | .notAvailable    => 0x04
  | .unexpectedReply => 0x05

/-- The kind a `RESULT` value names; 0x06..0xFF are reserved (R71). -/
def ResultKind.ofCode (v : Byte) : Option ResultKind :=
  match v.toNat with
  | 0 => some .checkOk
  | 1 => some .checksumError
  | 2 => some .timeoutError
  | 3 => some .commandRejected
  | 4 => some .notAvailable
  | 5 => some .unexpectedReply
  | _ => none

end Sys2Proof
end

