-- ==== Sys2Proof/Machine/State.lean ====
section
/-! DEFINITION. The state of the block and of the agents around it, as plain data, and its value after
reset (spec/10_state.md R20, R30, R31; spec/20_memory.md R52, R53; spec/70_reset_and_hazards.md R160,
R162). -/

namespace Sys2Proof.Machine

/-- The Engine's state `s.fsm`: the twelve states of R31 and the four unused codes 12..15. -/
inductive Fsm where
  | idle | rxClear | txPush | txFlush | settle | rxWait | respEval
  | syncStart | syncHdr | syncBody | syncEval | extract
  /-- Code 12 + n, which no run reaches (R31). -/
  | unused (n : Fin 4)
  deriving DecidableEq, Repr

/-- One step of one agent (R2). The block's own steps are `engine`; the others are its inputs. -/
inductive AgentStep where
  /-- The Host reads one register. -/
  | hostRead (addr : Byte)
  /-- The Host writes one register; a write of `OP` issues an operation. -/
  | hostWrite (addr data : Byte)
  /-- The Engine takes its next step, or holds. -/
  | engine
  /-- The RX producer offers one byte to the RX queue. -/
  | rxProduce (b : Byte)
  /-- The TX drain transmits one byte. -/
  | txDrain
  /-- The Timebase delivers one tick. -/
  | tick
  /-- The Reset agent asserts reset. -/
  | reset
  deriving DecidableEq, Repr

/-- Whose turn the next step is: a given agent's, or the host program's next operation. -/
inductive Turn where
  /-- This agent takes this step. -/
  | agent (a : AgentStep)
  /-- The host program goes on by one operation (R72). -/
  | program
  deriving DecidableEq, Repr

/-- What one host read returned: the Host's own record of a bus read. -/
structure HostRead where
  addr  : Byte
  value : Byte
  deriving DecidableEq, Repr

/-- The host-visible registers that hold a value (R20). `OP` holds none (R21). -/
structure Regs where
  /-- `STATUS`, fields in R22. -/
  status   : Byte
  result   : Byte
  timeoutH : Byte
  timeoutL : Byte
  cmd      : Byte
  p0       : Byte
  p1       : Byte
  p2       : Byte
  p3       : Byte
  p4       : Byte
  mode     : Byte
  pm1_0H   : Byte
  pm1_0L   : Byte
  pm2_5H   : Byte
  pm2_5L   : Byte
  pm10H    : Byte
  pm10L    : Byte
  resp     : Frame9
  frameOut : Frame32
  deriving DecidableEq, Repr

/-- The internal elements of R30, each under the name the spec gives it after `s.`. -/
structure Engine where
  fsm       : Fsm
  /-- Opcode of the running operation. -/
  op        : Byte
  /-- The latched timeout. -/
  t         : Word16
  /-- The Command Frame being sent. -/
  txbuf     : Frame9
  txidx     : Nat
  /-- The response bytes received so far. -/
  rbuf      : Frame9
  rxidx     : Nat
  /-- Ticks counted in the current wait. -/
  w         : Nat
  /-- RX count at the start of the `SYNC_FRAME` call. -/
  avail     : Nat
  skip      : Nat
  fail      : Nat
  hidx      : Nat
  bidx      : Nat
  /-- Running sum of the candidate frame. -/
  sum       : Word16
  /-- The candidate frame. -/
  fbuf      : Frame32
  /-- The shared telemetry buffer (R32). -/
  tbuf      : Frame32
  tbufValid : Bool
  deriving DecidableEq, Repr

/-- The machine: the block (`regs`, `eng`), the transport (`rx`, `tx`, `txlog`), and the model's own
bookkeeping of the other agents (`draws`, `schedule`, `program`, `hostLog`). -/
structure State where
  /-- The host-visible registers (R20). -/
  regs     : Regs
  /-- The internal elements (R30). -/
  eng      : Engine
  /-- The RX queue, head first (R52). -/
  rx       : List Byte
  /-- The TX queue, head first (R53). -/
  tx       : List Byte
  /-- The transmitted-byte history, oldest first (R53). -/
  txlog    : List Byte
  /-- The model's own: how many `underflow_byte` draws have been taken (R88). -/
  draws    : Nat
  /-- The model's own: whose the coming steps are, next first (R2, R55). -/
  schedule : List Turn
  /-- The model's own: what is left of the host program, its stimuli in their places (R72). -/
  program  : List ProgramOp
  /-- The model's own: what the Host's reads returned, oldest first (R40). -/
  hostLog  : List HostRead
  deriving DecidableEq, Repr

/-- Why the machine stops. Each reason is raised by the Engine only, in a state that no run reaches
(`MachineInv` of Sys2Proof/Safety.lean rules it out), so each is safe. -/
inductive Fault where
  /-- The Engine is in one of the unused states 12..15 (R31; 93_implementation_defined.md I15). Raised
  by `engineAction`. Safe. -/
  | unusedFsmState
  /-- The Engine is in a state that the running operation never visits (R86), so R83 gives no action.
  Raised by `txFlushStep`, `settleStep` and `responseDone`. Safe. -/
  | operationMismatch
  /-- A buffer index lies outside its buffer, which R95 rules out. Raised by `txPushStep`,
  `rxWaitStep`, `syncHdrStep` and `syncBodyStep`. Safe. -/
  | indexOutOfRange
  deriving DecidableEq, Repr

/-- Why an instruction has no meaning. -/
inductive Refusal where
  /-- An arm of `exec` that gives its instruction no meaning yet. No arm raises it in this model. Safe. -/
  | notModelled (mnemonic : String)
  deriving DecidableEq, Repr

/-- What a step of this machine answers. -/
abbrev Result := Host.Outcome State Fault Refusal

/-- The registers' reset values (R20, R24, R161). -/
def Regs.reset : Regs where
  status   := 0x00
  result   := 0x00
  timeoutH := Config.TIMEOUT_RESET.extractLsb' 8 8
  timeoutL := Config.TIMEOUT_RESET.extractLsb' 0 8
  cmd      := 0x00
  p0       := 0x00
  p1       := 0x00
  p2       := 0x00
  p3       := 0x00
  p4       := 0x00
  mode     := 0x00
  pm1_0H   := 0x00
  pm1_0L   := 0x00
  pm2_5H   := 0x00
  pm2_5L   := 0x00
  pm10H    := 0x00
  pm10L    := 0x00
  resp     := Vector.replicate 9 0x00
  frameOut := Vector.replicate 32 0x00

/-- The internal elements' reset values (R30). -/
def Engine.reset : Engine where
  fsm       := .idle
  op        := 0x00
  t         := 0
  txbuf     := Vector.replicate 9 0x00
  txidx     := 0
  rbuf      := Vector.replicate 9 0x00
  rxidx     := 0
  w         := 0
  avail     := 0
  skip      := 0
  fail      := 0
  hidx      := 0
  bidx      := 4
  sum       := 0
  fbuf      := Vector.replicate 32 0x00
  tbuf      := Vector.replicate 32 0x00
  tbufValid := false

/-- The initial state of a run: the state after one Reset step, with the queues and the
transmitted-byte history empty (R162). The model's own fields start empty (log entry 7). -/
def State.reset : State where
  regs     := Regs.reset
  eng      := Engine.reset
  rx       := []
  tx       := []
  txlog    := []
  draws    := 0
  schedule := []
  program  := []
  hostLog  := []

end Sys2Proof.Machine
end

