-- ==== Sys2Proof/Machine/Flags.lean ====
section
/-! DEFINITION. The fields of `STATUS` (spec/10_state.md R22) and every way a rule changes them. -/

namespace Sys2Proof.Machine

/-- Bit of `STATUS`: an operation is running (R22). -/
abbrev BUSY : Nat := 0
/-- Bit of `STATUS`: the last issued operation has completed (R22). -/
abbrev DONE : Nat := 1
/-- Bit of `STATUS`: an undefined opcode was written while idle (R22). -/
abbrev ILLEGAL_OP : Nat := 2
/-- Bit of `STATUS`: `OP` was written while an operation ran (R22). -/
abbrev OP_WHILE_BUSY : Nat := 3
/-- Bit of `STATUS`: the host-visible copy of `s.tbuf_valid` (R22). -/
abbrev TBUF_VALID : Nat := 4
/-- Bit of `STATUS`: the synchronizer popped an empty RX queue (R22). -/
abbrev RX_UNDERFLOW : Nat := 5

/-- Bit `i` of a byte (R8). -/
def bit (v : Byte) (i : Nat) : Bool := v.getLsbD i

/-- A byte with bit `i` set. -/
def setBit (v : Byte) (i : Nat) : Byte := v ||| 1#8 <<< i

/-- A byte with bit `i` cleared. -/
def clearBit (v : Byte) (i : Nat) : Byte := v &&& ~~~(1#8 <<< i)

/-- The W1C bits of `STATUS` (R22). -/
def w1cBits : List Nat := [DONE, ILLEGAL_OP, OP_WHILE_BUSY, RX_UNDERFLOW]

/-- A host write of `v` to `STATUS` clears each W1C bit whose written bit is 1 and changes no other
bit (R22, R41). -/
def statusAfterWrite (st v : Byte) : Byte :=
  w1cBits.foldl (fun st b => if bit v b then clearBit st b else st) st

/-- What a host read of `STATUS` returns: the reserved bits 7:6 read as 0 (R22, R42). -/
def statusRead (st : Byte) : Byte := st &&& 0x3F

/-- `STATUS` at issue: `BUSY` set, `DONE` cleared (R80). -/
def statusAtIssue (st : Byte) : Byte := clearBit (setBit st BUSY) DONE

/-- `STATUS` at completion: `BUSY` cleared, `DONE` set (R84). -/
def statusAtCompletion (st : Byte) : Byte := setBit (clearBit st BUSY) DONE

/-- An operation is running: `STATUS.BUSY` = 1 (R22). -/
def State.busy (s : State) : Bool := bit s.regs.status BUSY

/-- The state with one bit of `STATUS` set. -/
def State.setFlag (s : State) (i : Nat) : State :=
  { s with regs.status := setBit s.regs.status i }

/-- The state with one bit of `STATUS` cleared. -/
def State.clearFlag (s : State) (i : Nat) : State :=
  { s with regs.status := clearBit s.regs.status i }

end Sys2Proof.Machine
end

