-- ==== Sys2Proof/Machine/Operands.lean ====
section
/-! DEFINITION. Byte and sum arithmetic (spec/00_scope.md R8, R9), operand assembly (spec/30_encoding.md
R61), the Command Frame builder (R64, R97), and the validation laws and field positions of the Response
and Telemetry Frames (R66 to R69). -/

namespace Sys2Proof.Machine

/-- `{hi, lo}`: the 16-bit value `hi * 256 + lo` (R8). -/
def pair (hi lo : Byte) : Word16 := hi ++ lo

/-- `v[15:8]` (R8). -/
def hiByte (v : Word16) : Byte := v.extractLsb' 8 8

/-- `v[7:0]` (R8). -/
def loByte (v : Word16) : Byte := v.extractLsb' 0 8

/-- `zext_16(b)` (R8). -/
def zext16 (b : Byte) : Word16 := b.setWidth 16

/-- `neg8(x)`: `(256 - x) mod 256` (R9). -/
def neg8 (x : Byte) : Byte := -x

/-- `f[i], f[i+1], ..., f[j]`. -/
def span (f : List Byte) (i j : Nat) : List Byte := (f.drop i).take (j + 1 - i)

/-- `sum8(f, i, j)`: `(f[i] + ... + f[j]) mod 256` (R9). -/
def sum8 (f : List Byte) (i j : Nat) : Byte := (span f i j).sum

/-- `sum16(f, i, j)`: `(f[i] + ... + f[j]) mod 65536` (R9). -/
def sum16 (f : List Byte) (i j : Nat) : Word16 := ((span f i j).map zext16).sum

/-- `T = {TIMEOUT_H, TIMEOUT_L}` (R24, R61). -/
def timeoutOperand (g : Regs) : Word16 := pair g.timeoutH g.timeoutL

/-- The checksum byte of a Command Frame: `neg8(sum8(f, 1, 7))` (R65). -/
def cmdChecksum (f : Frame9) : Byte := neg8 (sum8 f.toList 1 7)

/-- `BuildCmd(c, p)`: the 9-byte Command Frame with its checksum (R64, R97). -/
def buildCmd (c p0 p1 p2 p3 p4 : Byte) : Frame9 :=
  let f : Frame9 := #v[Config.START, Config.DEVID, c, p0, p1, p2, p3, p4, 0x00]
  f.set 8 (cmdChecksum f)

/-- The frame `SEND_COMMAND` sends: `CMD` and `P0`..`P4` (R61, R70). -/
def sendCommandFrame (g : Regs) : Frame9 := buildCmd g.cmd g.p0 g.p1 g.p2 g.p3 g.p4

/-- The frame `QUERY_DUST` sends (R70). -/
def queryDustFrame : Frame9 := buildCmd Config.QUERY_CMD 0x00 0x00 0x00 0x00 0x00

/-- The frame `ENTER_SLEEP` sends (R70). -/
def enterSleepFrame : Frame9 := buildCmd Config.SLEEP_CMD Config.SLEEP_PARAM 0x00 0x00 0x00 0x00

/-- The frame `EXIT_SLEEP` sends (R70). -/
def exitSleepFrame : Frame9 := buildCmd Config.SLEEP_CMD Config.WAKE_PARAM 0x00 0x00 0x00 0x00

/-- The frame `SET_UPLOAD_MODE` sends: `MODE` at frame byte 3 (R61, R70). -/
def setUploadModeFrame (g : Regs) : Frame9 :=
  buildCmd Config.UPLOAD_MODE_CMD g.mode 0x00 0x00 0x00 0x00

/-- The validation law of a Response Frame: `neg8(sum8(r, 1, 7)) = r[8]` (R66). -/
def responseValid (r : Frame9) : Bool := neg8 (sum8 r.toList 1 7) == r[8]

/-- `PM1_0 = {r[6], r[7]}` (R67). -/
def dustPM1_0 (r : Frame9) : Word16 := pair r[6] r[7]

/-- `PM2_5 = {r[2], r[3]}` (R67). -/
def dustPM2_5 (r : Frame9) : Word16 := pair r[2] r[3]

/-- `PM10 = {r[4], r[5]}` (R67). -/
def dustPM10 (r : Frame9) : Word16 := pair r[4] r[5]

/-- The validation law of a Telemetry Frame: `{f[30], f[31]} = sum16(f, 0, 29)` (R68). -/
def telemetryChecksumOk (f : Frame32) : Bool := pair f[30] f[31] == sum16 f.toList 0 29

/-- A Telemetry Frame starts with the header `HDR` (R68). -/
def telemetryHeaderOk (f : Frame32) : Bool :=
  f[0] == Config.HDR[0] && f[1] == Config.HDR[1] && f[2] == Config.HDR[2] && f[3] == Config.HDR[3]

/-- A valid Telemetry Frame: the header and the checksum law (R68). -/
def telemetryValid (f : Frame32) : Bool := telemetryHeaderOk f && telemetryChecksumOk f

/-- The sum the synchronizer compares: the running sum less the last two bytes (R69, R124). -/
def runningChecksum (sum : Word16) (f : Frame32) : Word16 := sum - zext16 f[30] - zext16 f[31]

/-- The synchronizer's comparison of that sum, split into bytes, with the frame's last two (R124). -/
def runningChecksumOk (sum : Word16) (f : Frame32) : Bool :=
  hiByte (runningChecksum sum f) == f[30] && loByte (runningChecksum sum f) == f[31]

end Sys2Proof.Machine
end

