-- ==== Sys2Proof/Machine/Ops.lean ====
section
/-! DEFINITION. The operations that the meanings share: the transport primitives (spec/40_common.md R87
to R90), issue and refused issue (R80, R81), completion (R84), and the steps of the agents that are not
the Engine (R52, R53, R141, R160).

The block takes no exception and has no return from one (R140, R146): an error is a result kind, and
`State.complete` is the one shared way in which an operation ends and the block is idle again. -/

namespace Sys2Proof.Machine

/-- The code of an Engine state: 4 bits (R31). -/
def Fsm.code : Fsm → BitVec 4
  | .idle => 0 | .rxClear => 1 | .txPush => 2 | .txFlush => 3
  | .settle => 4 | .rxWait => 5 | .respEval => 6 | .syncStart => 7
  | .syncHdr => 8 | .syncBody => 9 | .syncEval => 10 | .extract => 11
  | .unused n => 12 + BitVec.ofNat 4 n.val

/-- The Engine state of a code (R31). -/
def Fsm.ofCode (c : BitVec 4) : Fsm :=
  match c.toNat with
  | 0 => .idle | 1 => .rxClear | 2 => .txPush | 3 => .txFlush
  | 4 => .settle | 5 => .rxWait | 6 => .respEval | 7 => .syncStart
  | 8 => .syncHdr | 9 => .syncBody | 10 => .syncEval | 11 => .extract
  | n => .unused (Fin.ofNat 4 (n - 12))

/-- Whether the state is one of the unused codes 12..15 (R31). -/
def Fsm.isUnused : Fsm → Bool
  | .unused _ => true
  | .idle | .rxClear | .txPush | .txFlush | .settle | .rxWait | .respEval
  | .syncStart | .syncHdr | .syncBody | .syncEval | .extract => false

/-- `goto S` (R10). -/
def State.goto (s : State) (f : Fsm) : State := { s with eng.fsm := f }

/-- The running operation that `s.op` names, if it names one (R30, R60). -/
def State.running (s : State) : Option Instr := (decode s.eng.op).toOption

/-! ### The transport primitives -/

/-- `rx_count()` (R52). -/
def State.rxCount (s : State) : Nat := s.rx.length

/-- `tx_count()` (R53). -/
def State.txCount (s : State) : Nat := s.tx.length

/-- `RxPopNB()`: the head of the RX queue, or a draw that sets `RX_UNDERFLOW` and leaves the queue
unchanged (R88). -/
def State.rxPopNB (s : State) : Byte × State :=
  match s.rx with
  | b :: rest => (b, { s with rx := rest })
  | [] => (Config.underflowByte s.draws, { s.setFlag RX_UNDERFLOW with draws := s.draws + 1 })

/-- `RxClear()`: every byte in the RX queue is discarded (R89). -/
def State.rxClear (s : State) : State := { s with rx := [] }

/-- `TxPush(b)` (R90). -/
def State.txPush (s : State) (b : Byte) : State := { s with tx := s.tx ++ [b] }

/-! ### Issue and completion -/

/-- What every issue does: latch the opcode and the timeout, set `BUSY`, clear `DONE` (R80). -/
def State.latchIssue (s : State) (i : Instr) : State :=
  { s with
    eng.op := encode i
    eng.t := timeoutOperand s.regs
    regs.status := statusAtIssue s.regs.status }

/-- A write of `OP` while an operation runs (R81). -/
def State.refuseBusy (s : State) : State := s.setFlag OP_WHILE_BUSY

/-- A write of an undefined value to `OP` (R62, R81): the busy check comes first. -/
def State.refuseUndefined (s : State) : State :=
  if s.busy then s.refuseBusy else s.setFlag ILLEGAL_OP

/-- `IssueOp`: with `BUSY` = 1 the write only sets `OP_WHILE_BUSY` (R81), else it latches the operands
and does the operation's own part `start` (R80). -/
def issueOp (i : Instr) (start : State → State) (s : State) : Result :=
  if s.busy then .next s.refuseBusy else .next (start (s.latchIssue i))

/-- `complete(k)`: the last action of every operation (R84). -/
def State.complete (s : State) (k : ResultKind) : State :=
  { s with
    regs.result := k.code
    regs.status := statusAtCompletion s.regs.status
    eng.fsm := .idle }

/-! ### The agents around the Engine -/

/-- The RX producer's step: the byte joins the tail of a queue with room; with the queue full it is
lost, as a byte never sent (R52; 93_implementation_defined.md I5). -/
def State.rxProduce (s : State) (b : Byte) : State :=
  if s.rxCount < Config.RX_DEPTH then { s with rx := s.rx ++ [b] } else s

/-- The TX drain's step: the head of a non-empty TX queue moves to the transmitted-byte history (R53). -/
def State.txDrain (s : State) : State :=
  match s.tx with
  | [] => s
  | b :: rest => { s with tx := rest, txlog := s.txlog ++ [b] }

/-- The Timebase's step: a tick counts in `SETTLE` and `RX_WAIT` only, up to 65536 (R141). -/
def State.tick (s : State) : State :=
  if (s.eng.fsm = .settle ∨ s.eng.fsm = .rxWait) ∧ s.eng.w < 65536 then
    { s with eng.w := s.eng.w + 1 }
  else s

/-- The Reset agent's step: every register and internal element takes its reset value; the queues and
the history are not changed (R160), nor are the model's own fields (log entry 7). -/
def State.applyReset (s : State) : State :=
  { s with regs := Regs.reset, eng := Engine.reset }

end Sys2Proof.Machine
end

