-- ==== Sys2Proof/Machine/Synchronizer.lean ====
section
/-! DEFINITION. The stream frame synchronizer (spec/42_synchronizer.md): the issue of `SYNC_FRAME` and
`EXTRACT_FRAME` and their Engine states. -/

namespace Sys2Proof.Machine

/-- `SYNC_FRAME` at its `OP` write (R80, R120). -/
def execSyncFrame (s : State) : Result := issueOp .syncFrame (fun s => s.goto .syncStart) s

/-- `EXTRACT_FRAME` at its `OP` write (R80, R130). -/
def execExtractFrame (s : State) : Result := issueOp .extractFrame (fun s => s.goto .extract) s

/-- `SYNC_START`: the availability check, which pops nothing (R120). -/
def syncStartStep (s : State) : Result :=
  if s.rxCount < Config.FRAME_LEN then
    .next (State.complete { s with eng.avail := s.rxCount } .notAvailable)
  else
    .next { s with
      eng.avail := s.rxCount
      eng.skip := 0
      eng.fail := 0
      eng.hidx := 0
      eng.fsm := .syncHdr }

/-- `FailedAttempt()`: the search resumes with the next byte, or the call ends beyond the budget (R122). -/
def failedAttempt (s : State) : State :=
  if s.eng.fail + 1 > Config.FAIL_BUDGET then
    State.complete { s with eng.fail := s.eng.fail + 1, eng.hidx := 0 } .notAvailable
  else { s with eng.fail := s.eng.fail + 1, eng.hidx := 0, eng.fsm := .syncHdr }

/-- A byte skip: the call tolerates `s.avail - 32` of them (R121). -/
def byteSkip (s : State) : State :=
  if s.eng.skip + 1 > s.eng.avail - Config.FRAME_LEN then
    State.complete { s with eng.skip := s.eng.skip + 1 } .notAvailable
  else { s with eng.skip := s.eng.skip + 1 }

/-- `SYNC_HDR` at header index 0, with the popped byte and the state after the pop: a match starts an
attempt, anything else is a byte skip (R121). -/
def headerStart (b : Byte) (s : State) : State :=
  if b = Config.HDR[0] then
    { s with eng.fbuf := s.eng.fbuf.set 0 b, eng.sum := zext16 b, eng.hidx := 1 }
  else byteSkip s

/-- `SYNC_HDR` at header index 1 to 3: a match goes on to the next index, or to the body after index 3;
anything else is a failed attempt, and the byte is not looked at again (R122). -/
def headerNext (k : Fin 4) (b : Byte) (s : State) : State :=
  if b ≠ Config.HDR[k] then failedAttempt s
  else if k.val = 3 then
    { s with
      eng.fbuf := s.eng.fbuf.set k.val b, eng.sum := s.eng.sum + zext16 b
      eng.bidx := 4, eng.fsm := .syncBody }
  else
    { s with
      eng.fbuf := s.eng.fbuf.set k.val b, eng.sum := s.eng.sum + zext16 b
      eng.hidx := k.val + 1 }

/-- `SYNC_HDR`: pop one byte and compare it with `HDR[s.hidx]` (R121, R122). -/
def syncHdrStep (s : State) : Result :=
  if h : s.eng.hidx < 4 then
    if s.eng.hidx = 0 then .next (headerStart s.rxPopNB.1 s.rxPopNB.2)
    else .next (headerNext ⟨s.eng.hidx, h⟩ s.rxPopNB.1 s.rxPopNB.2)
  else .fault .indexOutOfRange

/-- A popped body byte joins the candidate at index `s.bidx` (R123). -/
def bodyByte (b : Byte) (s : State) (h : s.eng.bidx < 32) : State :=
  { s with
    eng.fbuf := s.eng.fbuf.set s.eng.bidx b h
    eng.sum := s.eng.sum + zext16 b
    eng.bidx := s.eng.bidx + 1
    eng.fsm := if s.eng.bidx + 1 = Config.FRAME_LEN then .syncEval else .syncBody }

/-- `SYNC_BODY`: pop one body byte without checking the RX count (R123). -/
def syncBodyStep (s : State) : Result :=
  if h : s.rxPopNB.2.eng.bidx < Config.FRAME_LEN then
    .next (bodyByte s.rxPopNB.1 s.rxPopNB.2 h)
  else .fault .indexOutOfRange

/-- The telemetry buffer takes the validated candidate, and both validity tags are set (R124). -/
def acceptFrame (s : State) : State :=
  { s.setFlag TBUF_VALID with eng.tbuf := s.eng.fbuf, eng.tbufValid := true }

/-- `SYNC_EVAL`: a match fills the telemetry buffer, a mismatch is a failed attempt (R124). -/
def syncEvalStep (s : State) : Result :=
  if runningChecksumOk s.eng.sum s.eng.fbuf then .next ((acceptFrame s).complete .checkOk)
  else .next (failedAttempt s)

/-- `EXTRACT`: copy the telemetry buffer to `FRAME_OUT`, zero it, and complete (R130). -/
def extractStep (s : State) : Result :=
  .next (State.complete
    { s.clearFlag TBUF_VALID with
      regs.frameOut := s.eng.tbuf
      eng.tbuf := Vector.replicate 32 0x00
      eng.tbufValid := false } .checkOk)

end Sys2Proof.Machine
end

