-- ==== Sys2Proof/Machine/Transaction.lean ====
section
/-! DEFINITION. The transaction engine (spec/41_transaction.md): the issue of its six operations, its
Engine states (spec/40_common.md R83), the response reader (R92) and each operation's completion. -/

namespace Sys2Proof.Machine

/-! ### Issue -/

/-- The start of an operation that sends: the frame is ready and the stale bytes go first (R80). -/
def startTransmit (f : Frame9) (s : State) : State :=
  { s with eng.txbuf := f, eng.fsm := .rxClear }

/-- The start of a response read: both counters at zero, then `RX_WAIT` (R80, R83). -/
def startReceive (s : State) : State :=
  { s with eng.rxidx := 0, eng.w := 0, eng.fsm := .rxWait }

/-- `SEND_COMMAND` at its `OP` write (R80, R100). -/
def execSendCommand (s : State) : Result :=
  issueOp .sendCommand (startTransmit (sendCommandFrame s.regs)) s

/-- `READ_RESPONSE` at its `OP` write (R80, R101). -/
def execReadResponse (s : State) : Result := issueOp .readResponse startReceive s

/-- `QUERY_DUST` at its `OP` write (R80, R102). -/
def execQueryDust (s : State) : Result := issueOp .queryDust (startTransmit queryDustFrame) s

/-- `ENTER_SLEEP` at its `OP` write (R80, R103). -/
def execEnterSleep (s : State) : Result := issueOp .enterSleep (startTransmit enterSleepFrame) s

/-- `EXIT_SLEEP` at its `OP` write (R80, R104). -/
def execExitSleep (s : State) : Result := issueOp .exitSleep (startTransmit exitSleepFrame) s

/-- `SET_UPLOAD_MODE` at its `OP` write (R80, R105). -/
def execSetUploadMode (s : State) : Result :=
  issueOp .setUploadMode (startTransmit (setUploadModeFrame s.regs)) s

/-! ### Completion of an operation that reads a response -/

/-- `ResponseDone`'s first line: `RESP` takes the received bytes, or zeros on `TimeoutError` (R92). -/
def recordResponse (k : ResultKind) (s : State) : State :=
  { s with regs.resp := if k = .timeoutError then Vector.replicate 9 0x00 else s.eng.rbuf }

/-- The six PM registers take a Dust Reading (R67, R102). -/
def writeDust (pm1_0 pm2_5 pm10 : Word16) (s : State) : State :=
  { s with
    regs.pm1_0H := hiByte pm1_0, regs.pm1_0L := loByte pm1_0
    regs.pm2_5H := hiByte pm2_5, regs.pm2_5L := loByte pm2_5
    regs.pm10H := hiByte pm10, regs.pm10L := loByte pm10 }

/-- `READ_RESPONSE` completes with the reader's kind (R101). -/
def readResponseDone (k : ResultKind) (s : State) : State := s.complete k

/-- `QUERY_DUST` completes: the reading on a query reply, else zeros (R102). -/
def queryDustDone (k : ResultKind) (s : State) : State :=
  if k = .checkOk ∧ s.eng.rbuf[1] = Config.QUERY_CMD then
    (writeDust (dustPM1_0 s.eng.rbuf) (dustPM2_5 s.eng.rbuf) (dustPM10 s.eng.rbuf) s).complete
      .checkOk
  else
    (writeDust 0 0 0 s).complete (if k = .checkOk then .unexpectedReply else k)

/-- The echo check of the sleep and wake exchanges (R103, R104). -/
def echoDone (param : Byte) (k : ResultKind) (s : State) : State :=
  if k = .checkOk ∧ s.eng.rbuf[Config.ECHO_INDEX] ≠ param then s.complete .commandRejected
  else s.complete k

/-- `ENTER_SLEEP` completes (R103). -/
def enterSleepDone (k : ResultKind) (s : State) : State := echoDone Config.SLEEP_PARAM k s

/-- `EXIT_SLEEP` completes (R104). -/
def exitSleepDone (k : ResultKind) (s : State) : State := echoDone Config.WAKE_PARAM k s

/-- `ResponseDone(k)`: record `RESP`, then the running operation's own completion (R92). -/
def responseDone (k : ResultKind) (s : State) : Result :=
  match s.running with
  | some .readResponse => .next (readResponseDone k (recordResponse k s))
  | some .queryDust    => .next (queryDustDone k (recordResponse k s))
  | some .enterSleep   => .next (enterSleepDone k (recordResponse k s))
  | some .exitSleep    => .next (exitSleepDone k (recordResponse k s))
  | some .sendCommand | some .setUploadMode | some .syncFrame | some .extractFrame | none =>
    .fault .operationMismatch

/-! ### Engine states -/

/-- `RX_CLEAR` (R83). -/
def rxClearStep (s : State) : Result :=
  .next { s.rxClear with eng.txidx := 0, eng.fsm := .txPush }

/-- `TX_PUSH`, enabled with room in the TX queue (R83, R90). -/
def txPushStep (s : State) : Result :=
  match s.eng.txbuf[s.eng.txidx]? with
  | none => .fault .indexOutOfRange
  | some b =>
    .next { s.txPush b with
      eng.txidx := s.eng.txidx + 1
      eng.fsm := if s.eng.txidx + 1 = Config.CMD_LEN then .txFlush else .txPush }

/-- `TX_FLUSH`, enabled with the TX queue empty (R83, R91): a send-only operation completes, the query
reads at once, and a sleep or wake waits first. -/
def txFlushStep (s : State) : Result :=
  match s.running with
  | some .sendCommand | some .setUploadMode => .next (s.complete .checkOk)
  | some .queryDust => .next (startReceive s)
  | some .enterSleep | some .exitSleep => .next { s with eng.w := 0, eng.fsm := .settle }
  | some .readResponse | some .syncFrame | some .extractFrame | none => .fault .operationMismatch

/-- `N(op)`: the settle delay of the running operation, in ticks (R83). -/
def settleTicks (s : State) : Option Nat :=
  match s.running with
  | some .enterSleep => some Config.SLEEP_SETTLE
  | some .exitSleep  => some Config.WAKE_SETTLE
  | some .sendCommand | some .readResponse | some .queryDust | some .setUploadMode
  | some .syncFrame | some .extractFrame | none => none

/-- `SETTLE`, enabled once `s.w` has reached `N(op)` (R83, R93). -/
def settleStep (s : State) : Result :=
  match settleTicks s with
  | some _ => .next (startReceive s)
  | none => .fault .operationMismatch

/-- A received byte joins the response at index `s.rxidx`, and the wait starts again (R83, R92). -/
def receiveByte (b : Byte) (rest : List Byte) (s : State) (h : s.eng.rxidx < 9) : State :=
  { s with
    rx := rest
    eng.rbuf := s.eng.rbuf.set s.eng.rxidx b h
    eng.rxidx := s.eng.rxidx + 1
    eng.w := 0
    eng.fsm := if s.eng.rxidx + 1 = Config.RSP_LEN then .respEval else .rxWait }

/-- `RX_WAIT`, enabled with a byte available or the wait expired; an available byte wins (R83, R92,
R145). -/
def rxWaitStep (s : State) : Result :=
  match s.rx with
  | b :: rest =>
    if h : s.eng.rxidx < Config.RSP_LEN then .next (receiveByte b rest s h)
    else .fault .indexOutOfRange
  | [] => responseDone .timeoutError s

/-- `RESP_EVAL`: the checksum law decides between `CheckOk` and `ChecksumError` (R83). -/
def respEvalStep (s : State) : Result :=
  responseDone (if responseValid s.eng.rbuf then .checkOk else .checksumError) s

end Sys2Proof.Machine
end

