-- ==== Sys2Proof/Machine/Dispatch.lean ====
section
/-! DEFINITION. The meaning of each operation at the `OP` write that issues it (spec/40_common.md R80, R81). -/

namespace Sys2Proof.Machine

def exec (i : Instr) (s : State) : Host.Outcome State Fault Refusal :=
  match i with
  | .sendCommand => Sys2Proof.Machine.execSendCommand s
  | .readResponse => Sys2Proof.Machine.execReadResponse s
  | .queryDust => Sys2Proof.Machine.execQueryDust s
  | .enterSleep => Sys2Proof.Machine.execEnterSleep s
  | .exitSleep => Sys2Proof.Machine.execExitSleep s
  | .setUploadMode => Sys2Proof.Machine.execSetUploadMode s
  | .syncFrame => Sys2Proof.Machine.execSyncFrame s
  | .extractFrame => Sys2Proof.Machine.execExtractFrame s

end Sys2Proof.Machine
end

