-- ==== Sys2Proof/Machine/Engine.lean ====
section
/-! DEFINITION. The Engine agent: when it has a step and what the step does (spec/10_state.md R31;
spec/40_common.md R82, R83). -/

namespace Sys2Proof.Machine

/-- R31's "enabled when" column. In `SETTLE` with an operation that has no settle delay, which no run
reaches, the step is enabled and faults. -/
def engineEnabled (s : State) : Bool :=
  match s.eng.fsm with
  | .idle     => false
  | .rxClear  => true
  | .txPush   => s.txCount < Config.TX_DEPTH
  | .txFlush  => s.txCount = 0
  | .settle   => match settleTicks s with
                 | some n => n ≤ s.eng.w
                 | none => true
  | .rxWait   => 0 < s.rxCount ∨ s.eng.t.toNat < s.eng.w
  | .respEval => true
  | .syncStart => true
  | .syncHdr  => true
  | .syncBody => true
  | .syncEval => true
  | .extract  => true
  | .unused _ => false

/-- The action of an enabled Engine state (R83). -/
def engineAction (s : State) : Result :=
  match s.eng.fsm with
  | .idle      => .next s
  | .rxClear   => rxClearStep s
  | .txPush    => txPushStep s
  | .txFlush   => txFlushStep s
  | .settle    => settleStep s
  | .rxWait    => rxWaitStep s
  | .respEval  => respEvalStep s
  | .syncStart => syncStartStep s
  | .syncHdr   => syncHdrStep s
  | .syncBody  => syncBodyStep s
  | .syncEval  => syncEvalStep s
  | .extract   => extractStep s
  | .unused _  => .fault .unusedFsmState

/-- The Engine has something to do: an enabled step, or an unused state to report (R82; I15). -/
def engineReady (s : State) : Bool := engineEnabled s || s.eng.fsm.isUnused

/-- The Engine's turn: its action when it is enabled, else a hold that changes nothing (R82). -/
def engineStep (s : State) : Result := if engineReady s then engineAction s else .next s

end Sys2Proof.Machine
end

