-- ==== Sys2Proof/Machine/HostPort.lean ====
section
/-! DEFINITION. The host register space (spec/20_memory.md R40 to R45): 256 one-byte addresses, read
without side effect and written by register. The write of `OP` is in Sys2Proof/Machine/Agents.lean. -/

namespace Sys2Proof.Machine

/-- What a read of a register returns (R20, R22). -/
def Regs.read (g : Regs) : RegName → Byte
  | .op         => 0x00
  | .status     => statusRead g.status
  | .result     => g.result
  | .timeoutH   => g.timeoutH
  | .timeoutL   => g.timeoutL
  | .cmd        => g.cmd
  | .p0         => g.p0
  | .p1         => g.p1
  | .p2         => g.p2
  | .p3         => g.p3
  | .p4         => g.p4
  | .mode       => g.mode
  | .pm1_0H     => g.pm1_0H
  | .pm1_0L     => g.pm1_0L
  | .pm2_5H     => g.pm2_5H
  | .pm2_5L     => g.pm2_5L
  | .pm10H      => g.pm10H
  | .pm10L      => g.pm10L
  | .resp i     => g.resp[i]
  | .frameOut i => g.frameOut[i]

/-- What a write of a register other than `OP` stores: the byte in a RW register, the W1C effect in
`STATUS`, nothing in a read-only one (R41). `OP` holds no value (R21). -/
def Regs.write (g : Regs) (v : Byte) : RegName → Regs
  | .op         => g
  | .status     => { g with status := statusAfterWrite g.status v }
  | .timeoutH   => { g with timeoutH := v }
  | .timeoutL   => { g with timeoutL := v }
  | .cmd        => { g with cmd := v }
  | .p0         => { g with p0 := v }
  | .p1         => { g with p1 := v }
  | .p2         => { g with p2 := v }
  | .p3         => { g with p3 := v }
  | .p4         => { g with p4 := v }
  | .mode       => { g with mode := v }
  | .result | .pm1_0H | .pm1_0L | .pm2_5H | .pm2_5L | .pm10H | .pm10L
  | .resp _ | .frameOut _ => g

/-- `MemRead(addr, 1)`: the register's byte, or 0x00 at an unmapped address (R40, R42). -/
def State.memRead (s : State) (a : Byte) : Byte :=
  match RegName.ofAddr a with
  | some r => s.regs.read r
  | none   => 0x00

/-- `MemWrite(addr, 1, v)` for every address but `OP`'s: the register's write, or nothing at an
unmapped address (R41, R42). -/
def State.memWrite (s : State) (a v : Byte) : State :=
  match RegName.ofAddr a with
  | some r => { s with regs := s.regs.write v r }
  | none   => s

/-- The Host's read step: it changes nothing but the Host's own record of what it read (R40, R44). -/
def State.hostRead (s : State) (a : Byte) : State :=
  { s with hostLog := s.hostLog ++ [⟨a, s.memRead a⟩] }

end Sys2Proof.Machine
end

