-- ==== Sys2Proof/Machine/Agents.lean ====
section
/-! DEFINITION. The step of each of the six agents (spec/00_scope.md R2). -/

namespace Sys2Proof.Machine

/-- A write of `v` to `OP`: the operation it selects, or the refusal of an undefined value (R80, R81). -/
def writeOp (v : Byte) (s : State) : Result :=
  match decode v with
  | .ok i => exec i s
  | .error _ => .next s.refuseUndefined

/-- The Host's write step (R41). -/
def hostWrite (a v : Byte) (s : State) : Result :=
  if a = RegName.op.addr then writeOp v s else .next (s.memWrite a v)

/-- One step of one agent (R2). -/
def agentStep (a : AgentStep) (s : State) : Result :=
  match a with
  | .hostRead addr       => .next (s.hostRead addr)
  | .hostWrite addr data => hostWrite addr data s
  | .engine              => engineStep s
  | .rxProduce b         => .next (s.rxProduce b)
  | .txDrain             => .next s.txDrain
  | .tick                => .next s.tick
  | .reset               => .next s.applyReset

end Sys2Proof.Machine
end

