-- ==== Sys2Proof/Machine/HostProgram.lean ====
section
/-! DEFINITION. The host program notation of spec/30_encoding.md R72: what each line expands to, and the
step by which a host program in State goes on. -/

namespace Sys2Proof.Machine

/-- What a line expands to, in order (R72). -/
def lineOps : ProgramLine → List ProgramOp
  | .wr r imm      => [.bus (.write r.addr imm)]
  | .rd r          => [.bus (.read r.addr)]
  | .rdNamed r _   => [.bus (.read r.addr)]
  | .issue i       => [.bus (.write RegName.op.addr (encode i))]
  | .waitIdle      => [.waitIdle]
  | .call i        => [.bus (.write RegName.op.addr (encode i)), .waitIdle]
  | .setTimeout t  => [.bus (.write RegName.timeoutH.addr (hiByte t)),
                       .bus (.write RegName.timeoutL.addr (loByte t))]
  | .clearStatus   => [.bus (.write RegName.status.addr 0x2E)]
  | .rx bytes      => bytes.map .rx
  | .tick n        => List.replicate n .tick

/-- The Host's step for a transaction (R2, R72). -/
def transactionStep : Transaction → AgentStep
  | .write a d => .hostWrite a d
  | .read a    => .hostRead a

/-- The agent's step an operation of a host program is: the Host's for a transaction and for the read of
`STATUS` in `WAIT_IDLE`, the RX producer's and the Timebase's for a stimulus (R72). -/
def operationStep : ProgramOp → AgentStep
  | .bus t    => transactionStep t
  | .waitIdle => .hostRead RegName.status.addr
  | .rx b     => .rxProduce b
  | .tick     => .tick

/-- The test of the `WAIT_IDLE` loop: it goes on while the byte it read has bit 0 set (R72). -/
def waitIdleAgain (statusByte : Byte) : Bool := bit statusByte BUSY

/-- What is left of the host program after its next operation. A `WAIT_IDLE` stays while its test, on the
byte that this read of `STATUS` returns, says to go on; any other operation is done (R72). -/
def State.nextProgram (s : State) : List ProgramOp :=
  match s.program with
  | [] => []
  | .waitIdle :: rest =>
    if waitIdleAgain (s.memRead RegName.status.addr) then .waitIdle :: rest else rest
  | .bus _ :: rest => rest
  | .rx _ :: rest => rest
  | .tick :: rest => rest

/-- The state with this host program left. -/
def State.withProgram (s : State) (p : List ProgramOp) : State := { s with program := p }

/-- The host program goes on by one operation; a program that has ended changes nothing (R72). -/
def programStep (s : State) : Result :=
  match s.program with
  | [] => .next s
  | op :: _ => agentStep (operationStep op) (s.withProgram s.nextProgram)

/-- The state with these lines as its host program. -/
def State.load (s : State) (lines : List ProgramLine) : State := s.withProgram (lines.flatMap lineOps)

end Sys2Proof.Machine
end

