-- ==== Sys2Proof/Machine/Schedule.lean ====
section
/-! DEFINITION. Which agent moves next (spec/00_scope.md R2; spec/20_memory.md R55;
92_eei_decisions.md D43), and how an operation is scheduled. -/

namespace Sys2Proof.Machine

/-- The state with these turns to come. -/
def State.withSchedule (s : State) (l : List Turn) : State := { s with schedule := l }

/-- Whose turn it is when the schedule lists none: the Engine's when it has a step, else the TX drain's
when it has one, else the host program's while it lasts, else nobody's (D43; log entry 3). -/
def eagerTurn (s : State) : Option Turn :=
  if engineReady s then some (.agent .engine)
  else if 0 < s.txCount then some (.agent .txDrain)
  else if s.program = [] then none
  else some .program

/-- The step of one turn. -/
def turnStep (u : Turn) (s : State) : Result :=
  match u with
  | .agent a => agentStep a s
  | .program => programStep s

/-- One step of the machine: the scheduled turn's, else the eager turn's, else nothing moves. -/
def nextStep (s : State) : Result :=
  match s.schedule with
  | u :: rest => turnStep u (s.withSchedule rest)
  | [] => match eagerTurn s with
          | some u => turnStep u s
          | none => .next s

/-- The byte of a table word: one byte is the whole instruction (R63). -/
def opByteOf (nbits w : Nat) : Byte := BitVec.ofNat 8 (w % 2 ^ nbits)

/-- The Host's next step becomes the write of that byte to `OP` (R21, R60). -/
def State.scheduleOp (s : State) (v : Byte) : State :=
  s.withSchedule (.agent (.hostWrite RegName.op.addr v) :: s.schedule)

end Sys2Proof.Machine
end

