-- ==== Sys2Proof/Machine/Step.lean ====
section
/-! DEFINITION. One step of the machine, and where an instruction comes from: the block fetches nothing,
and an operation arrives as the Host's write of `OP` (spec/20_memory.md R58; spec/10_state.md R21). -/

namespace Sys2Proof.Machine

/-- One step: the next agent's (R2, R55). -/
def step (s : State) : Host.Outcome State Fault Refusal := Sys2Proof.Machine.nextStep s

/-- The state in which the very next step is the Host's write of this table word to `OP`. -/
def State.withFetchWord (s : State) (nbits w : Nat) : State := s.scheduleOp (opByteOf nbits w)

end Sys2Proof.Machine
end

