-- ==== Sys2Proof/Safety.lean ====
section
/-! DEFINITION. The terms in which statements speak of runs: a run of steps, the states an operation
visits (spec/40_common.md R86), the invariant of the machine (R95; spec/42_synchronizer.md R129;
spec/10_state.md R22, R31), and the end state of a run (spec/70_reset_and_hazards.md R173). -/

namespace Sys2Proof.Machine

/-- `n` steps, stopping at the first fault or refusal. -/
def run : Nat → State → Result
  | 0, s => .next s
  | n + 1, s =>
    match step s with
    | .next t => run n t
    | .fault f => .fault f
    | .refused r => .refused r

/-- The Engine states an operation visits (R86). -/
def visits : Instr → Fsm → Bool
  | .sendCommand, f | .setUploadMode, f => f = .rxClear ∨ f = .txPush ∨ f = .txFlush
  | .readResponse, f => f = .rxWait ∨ f = .respEval
  | .queryDust, f => f = .rxClear ∨ f = .txPush ∨ f = .txFlush ∨ f = .rxWait ∨ f = .respEval
  | .enterSleep, f | .exitSleep, f =>
    f = .rxClear ∨ f = .txPush ∨ f = .txFlush ∨ f = .settle ∨ f = .rxWait ∨ f = .respEval
  | .syncFrame, f => f = .syncStart ∨ f = .syncHdr ∨ f = .syncBody ∨ f = .syncEval
  | .extractFrame, f => f = .extract

/-- The result kinds an operation can complete with (R71, R142). -/
def produces : Instr → ResultKind → Bool
  | .sendCommand, k | .setUploadMode, k | .extractFrame, k => k = .checkOk
  | .readResponse, k => k = .checkOk ∨ k = .checksumError ∨ k = .timeoutError
  | .queryDust, k => k = .checkOk ∨ k = .checksumError ∨ k = .timeoutError ∨ k = .unexpectedReply
  | .enterSleep, k | .exitSleep, k =>
    k = .checkOk ∨ k = .checksumError ∨ k = .timeoutError ∨ k = .commandRejected
  | .syncFrame, k => k = .checkOk ∨ k = .notAvailable

/-- The Engine is sending a Command Frame. -/
def Fsm.transmits (f : Fsm) : Bool := f = .rxClear ∨ f = .txPush ∨ f = .txFlush

/-- The synchronizer is past its availability check. -/
def Fsm.searches (f : Fsm) : Bool := f = .syncHdr ∨ f = .syncBody ∨ f = .syncEval

/-- The sum of a candidate frame's first `n` bytes. -/
def prefixSum (f : Frame32) (n : Nat) : Word16 := ((f.toList.take n).map zext16).sum

/-- The candidate frame starts with the first `n` header bytes. -/
def headerUpTo (f : Frame32) (n : Nat) : Prop :=
  ∀ i : Fin 4, i.val < n → f[i.val] = Config.HDR[i]

/-- The registers agree with the Engine: `BUSY` says whether an operation runs (R22), `TBUF_VALID`
copies the internal tag (R32), the reserved bits are 0 (R22), and `RESULT` names a kind (R71). -/
structure RegsInv (s : State) : Prop where
  reserved : bit s.regs.status 6 = false ∧ bit s.regs.status 7 = false
  busy     : s.busy = true ↔ s.eng.fsm ≠ .idle
  tag      : bit s.regs.status TBUF_VALID = s.eng.tbufValid
  result   : ∃ k : ResultKind, s.regs.result = k.code

/-- The counters stay in R95's ranges, and strictly inside their buffer where they index one. -/
structure CounterInv (s : State) : Prop where
  txidx  : s.eng.txidx ≤ 9
  rxidx  : s.eng.rxidx ≤ 9
  bidx   : s.eng.bidx ≤ 32
  hidx   : s.eng.hidx ≤ 3
  fail   : s.eng.fail ≤ 4
  w      : s.eng.w ≤ 65536
  sum    : s.eng.sum.toNat ≤ 8160
  avail  : s.eng.avail ≤ Config.RX_DEPTH
  skip   : s.eng.skip ≤ Config.RX_DEPTH
  push   : s.eng.fsm = .txPush → s.eng.txidx < 9
  wait   : s.eng.fsm = .rxWait → s.eng.rxidx < 9
  body   : s.eng.fsm = .syncBody → 4 ≤ s.eng.bidx ∧ s.eng.bidx < 32
  search : s.eng.fsm.searches = true →
    32 ≤ s.eng.avail ∧ s.eng.skip ≤ s.eng.avail - 32 ∧ s.eng.fail ≤ 3

/-- The candidate frame and its running sum agree while one is being read (R121 to R123). -/
structure CandidateInv (s : State) : Prop where
  hdr  : s.eng.fsm = .syncHdr → headerUpTo s.eng.fbuf s.eng.hidx ∧
    (0 < s.eng.hidx → s.eng.sum = prefixSum s.eng.fbuf s.eng.hidx)
  body : s.eng.fsm = .syncBody → headerUpTo s.eng.fbuf 4 ∧
    s.eng.sum = prefixSum s.eng.fbuf s.eng.bidx
  eval : s.eng.fsm = .syncEval → headerUpTo s.eng.fbuf 4 ∧ s.eng.sum = prefixSum s.eng.fbuf 32

/-- The telemetry buffer holds 32 zero bytes, or a valid frame with its tag set (R129). -/
def TbufInv (s : State) : Prop :=
  (s.eng.tbufValid = false ∧ s.eng.tbuf = Vector.replicate 32 0x00) ∨
  (s.eng.tbufValid = true ∧ telemetryValid s.eng.tbuf = true)

/-- The Command Frame buffer obeys the checksum law at every step, and while a frame is being sent it
starts with the two fixed bytes (R64, R65). -/
structure TxbufInv (s : State) : Prop where
  checksum : cmdChecksum s.eng.txbuf = s.eng.txbuf[8]
  fixed    : s.eng.fsm.transmits = true →
    s.eng.txbuf[0] = Config.START ∧ s.eng.txbuf[1] = Config.DEVID

/-- The invariant of the machine. -/
structure MachineInv (s : State) : Prop where
  regs      : RegsInv s
  counters  : CounterInv s
  candidate : CandidateInv s
  tbuf      : TbufInv s
  txbuf     : TxbufInv s
  /-- A running operation is in a state it visits (R86). -/
  visiting  : s.eng.fsm ≠ .idle → ∃ i, s.running = some i ∧ visits i s.eng.fsm = true
  rxDepth   : s.rxCount ≤ Config.RX_DEPTH
  txDepth   : s.txCount ≤ Config.TX_DEPTH

/-- The transport and the model's own bookkeeping are the same in two states. -/
def sameOutside (s t : State) : Prop :=
  t.rx = s.rx ∧ t.tx = s.tx ∧ t.txlog = s.txlog ∧ t.draws = s.draws ∧
  t.schedule = s.schedule ∧ t.program = s.program ∧ t.hostLog = s.hostLog

/-- The six PM registers are the same in two states (R27). -/
def samePM (s t : State) : Prop :=
  t.regs.pm1_0H = s.regs.pm1_0H ∧ t.regs.pm1_0L = s.regs.pm1_0L ∧
  t.regs.pm2_5H = s.regs.pm2_5H ∧ t.regs.pm2_5L = s.regs.pm2_5L ∧
  t.regs.pm10H = s.regs.pm10H ∧ t.regs.pm10L = s.regs.pm10L

/-- The six PM registers hold these values, high byte then low byte (R27). -/
def holdsPM (s : State) (h1 l1 h2 l2 h3 l3 : Byte) : Prop :=
  s.regs.pm1_0H = h1 ∧ s.regs.pm1_0L = l1 ∧ s.regs.pm2_5H = h2 ∧ s.regs.pm2_5L = l2 ∧
  s.regs.pm10H = h3 ∧ s.regs.pm10L = l3

/-- The registers that only a completion step writes, `TBUF_VALID` among them, and the telemetry buffer
(R164, R33). -/
def sameResults (s t : State) : Prop :=
  t.regs.result = s.regs.result ∧ t.regs.resp = s.regs.resp ∧ samePM s t ∧
  t.regs.frameOut = s.regs.frameOut ∧
  bit t.regs.status TBUF_VALID = bit s.regs.status TBUF_VALID ∧
  t.eng.tbuf = s.eng.tbuf ∧ t.eng.tbufValid = s.eng.tbufValid

/-- A step from the first state to the second sets this bit of `STATUS`. -/
def setsBit (b : Nat) (s t : State) : Prop :=
  bit s.regs.status b = false ∧ bit t.regs.status b = true

/-- A step from the first state to the second clears this bit of `STATUS`. -/
def clearsBit (b : Nat) (s t : State) : Prop :=
  bit s.regs.status b = true ∧ bit t.regs.status b = false

/-- The agent's step is a host write of `STATUS` with a 1 in this bit, or a reset: what clears a sticky
flag (R22, R143). -/
def acknowledges (b : Nat) (a : AgentStep) : Prop :=
  a = .reset ∨ ∃ v : Byte, a = .hostWrite 0x01 v ∧ bit v b = true

/-- The agent's step is the Engine's, from a running operation to `IDLE`: a completion step (R84). -/
def completes (a : AgentStep) (s t : State) : Prop :=
  a = .engine ∧ s.eng.fsm ≠ .idle ∧ t.eng.fsm = .idle

/-- The two states differ in `STATUS` only, and there by setting one bit. -/
def onlySets (flag : Nat) (s t : State) : Prop :=
  t = { s with regs.status := t.regs.status } ∧
  ∀ b < 8, bit t.regs.status b = (bit s.regs.status b || decide (b = flag))

/-- The second state is the first with `BUSY` set and `DONE` cleared and these internal elements: what an
issue may change (R80). -/
def issuedAs (e : Engine) (s t : State) : Prop :=
  t = { s with regs.status := t.regs.status, eng := e } ∧
  bit t.regs.status BUSY = true ∧ bit t.regs.status DONE = false ∧
  ∀ b < 8, b ≠ BUSY → b ≠ DONE → bit t.regs.status b = bit s.regs.status b

/-- The second state is the first with `RESULT` = the kind's code, `BUSY` cleared, `DONE` set, `s.fsm` =
`IDLE`, and beyond those only these registers, these internal elements and this value of
`TBUF_VALID`: what a completion step may change (R84). -/
def completedAs (k : ResultKind) (g : Regs) (e : Engine) (tag : Bool) (s t : State) : Prop :=
  t = { s with
        regs := { g with result := k.code, status := t.regs.status }
        eng := { e with fsm := .idle } } ∧
  bit t.regs.status BUSY = false ∧ bit t.regs.status DONE = true ∧
  bit t.regs.status TBUF_VALID = tag ∧
  ∀ b < 8, b ≠ BUSY → b ≠ DONE → b ≠ TBUF_VALID → bit t.regs.status b = bit s.regs.status b

/-- The kind with which an operation that reads a response ends, once the nine bytes have arrived
(R101 to R104). -/
def responseKind (i : Instr) (r : Frame9) : ResultKind :=
  if neg8 (sum8 r.toList 1 7) ≠ r[8] then .checksumError
  else match i with
    | .queryDust => if r[1] = 0x86 then .checkOk else .unexpectedReply
    | .enterSleep => if r[2] = 0x01 then .checkOk else .commandRejected
    | .exitSleep => if r[2] = 0x00 then .checkOk else .commandRejected
    | .sendCommand | .readResponse | .setUploadMode | .syncFrame | .extractFrame => .checkOk

/-- The operations that read a response (R92). -/
def readsResponse : Instr → Bool
  | .readResponse | .queryDust | .enterSleep | .exitSleep => true
  | .sendCommand | .setUploadMode | .syncFrame | .extractFrame => false

/-- A Telemetry Frame with the right header and a wrong checksum (R128). -/
def corrupted (f : Frame32) : Bool := telemetryHeaderOk f && !telemetryChecksumOk f

/-- The pops between two states of one `SYNC_FRAME` call without arrivals: the bytes that left the RX
queue and the draws taken (R126). -/
def popsBetween (s t : State) : Nat := (s.rxCount - t.rxCount) + (t.draws - s.draws)

/-- What an end state of a run records (R173). -/
structure EndState where
  regs      : Regs
  tbuf      : Frame32
  tbufValid : Bool
  rx        : List Byte
  txlog     : List Byte
  deriving DecidableEq, Repr

/-- The end state of a run: taken with the Engine `IDLE`, `tx` empty and nothing left to deliver (R173). -/
def endState (s : State) : Option EndState :=
  if s.eng.fsm = .idle ∧ s.tx = [] ∧ s.schedule = [] ∧ s.program = [] then
    some ⟨s.regs, s.eng.tbuf, s.eng.tbufValid, s.rx, s.txlog⟩
  else none

end Sys2Proof.Machine
end

