-- ==== Sys2Proof/Certificates/Slice0/Obligations.lean ====
section
/-! DEFINITION. The statements for the provers, each with the rule it formalises. -/

open Sys2Proof Sys2Proof.Machine

/-! ### Encodings -/

/-- R60: the whole byte is the opcode, and a decoder selects by value. -/
def Obligations.OpcodeByteSelectsOperation : Prop :=
  RegName.op.addr = 0x00 ∧
  (∀ v : Byte, decode v =
    if v = 0x01 then .ok .sendCommand
    else if v = 0x02 then .ok .readResponse
    else if v = 0x03 then .ok .queryDust
    else if v = 0x04 then .ok .enterSleep
    else if v = 0x05 then .ok .exitSleep
    else if v = 0x06 then .ok .setUploadMode
    else if v = 0x07 then .ok .syncFrame
    else if v = 0x08 then .ok .extractFrame
    else .error (.undefinedOpcode v)) ∧
  ∀ i : Instr, i.wellFormed = true ∧ decode (encode i) = .ok i

/-- Sanity: the table's bytes, written out, decode to their operations, and 0x00, 0x09 and 0xFF to none
(R60, R62). -/
def Obligations.TableBytesDecode : Prop :=
  decodeTableWord 8 0b00000001 = some .sendCommand ∧
  decodeTableWord 8 0b00000010 = some .readResponse ∧
  decodeTableWord 8 0b00000011 = some .queryDust ∧
  decodeTableWord 8 0b00000100 = some .enterSleep ∧
  decodeTableWord 8 0b00000101 = some .exitSleep ∧
  decodeTableWord 8 0b00000110 = some .setUploadMode ∧
  decodeTableWord 8 0b00000111 = some .syncFrame ∧
  decodeTableWord 8 0b00001000 = some .extractFrame ∧
  decodeTableWord 8 0 = none ∧ decodeTableWord 8 9 = none ∧ decodeTableWord 8 0xFF = none

/-- R20's addresses: every register is found at its address, and at no other. -/
def Obligations.RegisterAddressesRoundTrip : Prop :=
  ∀ (r : RegName) (a : Byte), RegName.ofAddr a = some r ↔ r.addr = a

/-- R71's six values, which a completion leaves in `RESULT` where the host reads them, and no kind has a
reserved value. -/
def Obligations.ResultCodesRoundTrip : Prop :=
  ResultKind.checkOk.code = 0x00 ∧ ResultKind.checksumError.code = 0x01 ∧
  ResultKind.timeoutError.code = 0x02 ∧ ResultKind.commandRejected.code = 0x03 ∧
  ResultKind.notAvailable.code = 0x04 ∧ ResultKind.unexpectedReply.code = 0x05 ∧
  (∀ k : ResultKind, ResultKind.ofCode k.code = some k) ∧
  (∀ v : Byte, 6 ≤ v.toNat → ResultKind.ofCode v = none) ∧
  ∀ (s : State) (k : ResultKind), (s.complete k).memRead 0x02 = k.code

/-- R31's 4-bit codes, value by value, and a state for every code. -/
def Obligations.FsmCodesRoundTrip : Prop :=
  Fsm.idle.code = 0 ∧ Fsm.rxClear.code = 1 ∧ Fsm.txPush.code = 2 ∧ Fsm.txFlush.code = 3 ∧
  Fsm.settle.code = 4 ∧ Fsm.rxWait.code = 5 ∧ Fsm.respEval.code = 6 ∧ Fsm.syncStart.code = 7 ∧
  Fsm.syncHdr.code = 8 ∧ Fsm.syncBody.code = 9 ∧ Fsm.syncEval.code = 10 ∧ Fsm.extract.code = 11 ∧
  (∀ n : Fin 4, (Fsm.unused n).code.toNat = 12 + n.val) ∧
  (∀ f : Fsm, Fsm.ofCode f.code = f) ∧ (∀ c : BitVec 4, (Fsm.ofCode c).code = c)

/-! ### The step -/

/-- A step with a scheduled agent is that agent's step, and a step that the schedule gives to the host
program is the program's, each with the schedule moved on (R2, R55). -/
def Obligations.StepRunsScheduledAgent : Prop :=
  ∀ (s : State) (rest : List Turn),
    (∀ a : AgentStep, s.schedule = .agent a :: rest →
      step s = agentStep a { s with schedule := rest }) ∧
    (s.schedule = .program :: rest → step s = programStep { s with schedule := rest })

/-- The model's own choice (log entry 3): with nothing scheduled the Engine moves when it has a step,
else the TX drain when it has one, else the host program while it lasts, else nobody. -/
def Obligations.StepWithoutScheduleIsEager : Prop :=
  ∀ s : State, s.schedule = [] →
    (engineReady s = true → step s = agentStep .engine s) ∧
    (engineReady s = false → s.tx ≠ [] → step s = agentStep .txDrain s) ∧
    (engineReady s = false → s.tx = [] → s.program ≠ [] → step s = programStep s) ∧
    (engineReady s = false → s.tx = [] → s.program = [] → step s = .next s)

/-- The step at a write of `OP` runs the operation the byte decodes to, from the schedule and from
`withFetchWord` (R21, R58, R80). -/
def Obligations.StepRunsIssuedOperation : Prop :=
  (∀ (s : State) (v : Byte) (i : Instr) (rest : List Turn),
    s.schedule = .agent (.hostWrite 0x00 v) :: rest → decode v = .ok i →
    step s = exec i { s with schedule := rest }) ∧
  (∀ (s : State) (i : Instr), step (s.withFetchWord 8 (encode i).toNat) = exec i s)

/-! ### The host port -/

/-- R40, R20: what a host read returns at every address, and that it changes nothing but the Host's
record of it. -/
def Obligations.HostReadReturnsRegister : Prop :=
  (∀ (s : State) (a : Byte), agentStep (.hostRead a) s =
    .next { s with hostLog := s.hostLog ++ [⟨a, s.memRead a⟩] }) ∧
  ∀ s : State,
    s.memRead 0x00 = 0x00 ∧
    (∀ b < 8, bit (s.memRead 0x01) b = (bit s.regs.status b && decide (b < 6))) ∧
    s.memRead 0x02 = s.regs.result ∧
    s.memRead 0x03 = s.regs.timeoutH ∧ s.memRead 0x04 = s.regs.timeoutL ∧
    s.memRead 0x05 = s.regs.cmd ∧ s.memRead 0x06 = s.regs.p0 ∧ s.memRead 0x07 = s.regs.p1 ∧
    s.memRead 0x08 = s.regs.p2 ∧ s.memRead 0x09 = s.regs.p3 ∧ s.memRead 0x0A = s.regs.p4 ∧
    s.memRead 0x0B = s.regs.mode ∧
    s.memRead 0x0C = s.regs.pm1_0H ∧ s.memRead 0x0D = s.regs.pm1_0L ∧
    s.memRead 0x0E = s.regs.pm2_5H ∧ s.memRead 0x0F = s.regs.pm2_5L ∧
    s.memRead 0x10 = s.regs.pm10H ∧ s.memRead 0x11 = s.regs.pm10L ∧
    (∀ i : Fin 9, s.memRead (0x20 + BitVec.ofNat 8 i.val) = s.regs.resp[i]) ∧
    (∀ i : Fin 32, s.memRead (0x40 + BitVec.ofNat 8 i.val) = s.regs.frameOut[i]) ∧
    (∀ a : Byte, (0x12 ≤ a.toNat ∧ a.toNat ≤ 0x1F) ∨ (0x29 ≤ a.toNat ∧ a.toNat ≤ 0x3F) ∨
      0x60 ≤ a.toNat → s.memRead a = 0x00)

/-- R41, R22: what a host write does at every address. -/
def Obligations.HostWriteByRegister : Prop :=
  ∀ (s : State) (v : Byte),
    agentStep (.hostWrite 0x00 v) s =
      (match decode v with | .ok i => exec i s | .error _ => .next s.refuseUndefined) ∧
    (∃ t, agentStep (.hostWrite 0x01 v) s = .next t ∧ t = { s with regs.status := t.regs.status } ∧
      ∀ b < 8, bit t.regs.status b =
        (bit s.regs.status b && !(decide (b ∈ [1, 2, 3, 5]) && bit v b))) ∧
    (∀ a : Byte, 0x03 ≤ a.toNat ∧ a.toNat ≤ 0x0B →
      ∃ t, agentStep (.hostWrite a v) s = .next t ∧ t.memRead a = v ∧
        (∀ a', a' ≠ a → t.memRead a' = s.memRead a') ∧
        t.regs.status = s.regs.status ∧ t.eng = s.eng ∧ sameOutside s t) ∧
    (∀ a : Byte, a.toNat = 0x02 ∨ 0x0C ≤ a.toNat → agentStep (.hostWrite a v) s = .next s)

/-- R42: unmapped addresses and reserved bits. -/
def Obligations.UnmappedAddressesAreInert : Prop :=
  (∀ (s : State) (a v : Byte),
    (0x12 ≤ a.toNat ∧ a.toNat ≤ 0x1F) ∨ (0x29 ≤ a.toNat ∧ a.toNat ≤ 0x3F) ∨ 0x60 ≤ a.toNat →
    s.memRead a = 0x00 ∧ agentStep (.hostWrite a v) s = .next s) ∧
  (∀ (s t : State) (v : Byte), agentStep (.hostWrite 0x01 v) s = .next t →
    ∀ b < 8, 6 ≤ b → bit (s.memRead 0x01) b = false ∧ bit t.regs.status b = bit s.regs.status b)

/-- R45: the high byte of a 16-bit value lies at the lower address, and byte arrays at base + i. -/
def Obligations.HostValuesAreBigEndian : Prop :=
  (∀ s : State,
    (timeoutOperand s.regs).toNat = (s.memRead 0x03).toNat * 256 + (s.memRead 0x04).toNat) ∧
  (∀ (s : State) (pm1_0 pm2_5 pm10 : Word16), let t := writeDust pm1_0 pm2_5 pm10 s
    (t.memRead 0x0C).toNat * 256 + (t.memRead 0x0D).toNat = pm1_0.toNat ∧
    (t.memRead 0x0E).toNat * 256 + (t.memRead 0x0F).toNat = pm2_5.toNat ∧
    (t.memRead 0x10).toNat * 256 + (t.memRead 0x11).toNat = pm10.toNat) ∧
  (∀ (s : State) (i : Fin 9), s.memRead (0x20 + BitVec.ofNat 8 i.val) = s.regs.resp[i]) ∧
  (∀ (s : State) (i : Fin 32), s.memRead (0x40 + BitVec.ofNat 8 i.val) = s.regs.frameOut[i])

/-! ### Issue -/

/-- R80: what each operation's issue does, and that it does nothing else. -/
def Obligations.IssueStartsOperation : Prop :=
  ∀ s : State, s.busy = false → let g := s.regs
    (∀ (v : Byte) (i : Instr), decode v = .ok i →
      agentStep (.hostWrite 0x00 v) s = exec i s) ∧
    (∃ t, exec .sendCommand s = .next t ∧ issuedAs { s.eng with
      op := 0x01, t := g.timeoutH ++ g.timeoutL,
      txbuf := buildCmd g.cmd g.p0 g.p1 g.p2 g.p3 g.p4, fsm := .rxClear } s t) ∧
    (∃ t, exec .readResponse s = .next t ∧ issuedAs { s.eng with
      op := 0x02, t := g.timeoutH ++ g.timeoutL, rxidx := 0, w := 0, fsm := .rxWait } s t) ∧
    (∃ t, exec .queryDust s = .next t ∧ issuedAs { s.eng with
      op := 0x03, t := g.timeoutH ++ g.timeoutL,
      txbuf := buildCmd 0x86 0x00 0x00 0x00 0x00 0x00, fsm := .rxClear } s t) ∧
    (∃ t, exec .enterSleep s = .next t ∧ issuedAs { s.eng with
      op := 0x04, t := g.timeoutH ++ g.timeoutL,
      txbuf := buildCmd 0xA7 0x01 0x00 0x00 0x00 0x00, fsm := .rxClear } s t) ∧
    (∃ t, exec .exitSleep s = .next t ∧ issuedAs { s.eng with
      op := 0x05, t := g.timeoutH ++ g.timeoutL,
      txbuf := buildCmd 0xA7 0x00 0x00 0x00 0x00 0x00, fsm := .rxClear } s t) ∧
    (∃ t, exec .setUploadMode s = .next t ∧ issuedAs { s.eng with
      op := 0x06, t := g.timeoutH ++ g.timeoutL,
      txbuf := buildCmd Config.UPLOAD_MODE_CMD g.mode 0x00 0x00 0x00 0x00, fsm := .rxClear } s t) ∧
    (∃ t, exec .syncFrame s = .next t ∧ issuedAs { s.eng with
      op := 0x07, t := g.timeoutH ++ g.timeoutL, fsm := .syncStart } s t) ∧
    (∃ t, exec .extractFrame s = .next t ∧ issuedAs { s.eng with
      op := 0x08, t := g.timeoutH ++ g.timeoutL, fsm := .extract } s t)

/-- R81, R62: a write of `OP` that starts nothing sets one flag, the busy check first. -/
def Obligations.RefusedOpWriteSetsOneFlag : Prop :=
  ∀ (s : State) (v : Byte),
    (s.busy = true →
      ∃ t, agentStep (.hostWrite 0x00 v) s = .next t ∧ onlySets OP_WHILE_BUSY s t) ∧
    (s.busy = false → v.toNat = 0 ∨ 9 ≤ v.toNat →
      ∃ t, agentStep (.hostWrite 0x00 v) s = .next t ∧ onlySets ILLEGAL_OP s t)

/-- The frame of every operation's `OP` write, taken or refused: nothing outside `STATUS` and the
internal elements the issue latches or starts (R80, R81). -/
def Obligations.IssueFrame : Prop :=
  ∀ (i : Instr) (s t : State), exec i s = .next t →
    sameOutside s t ∧ sameResults s t ∧
    (∀ a : Byte, a ≠ 0x01 → t.memRead a = s.memRead a) ∧
    (∀ b < 8, b ≠ BUSY → b ≠ DONE → b ≠ OP_WHILE_BUSY →
      bit t.regs.status b = bit s.regs.status b) ∧
    t.eng.rbuf = s.eng.rbuf ∧ t.eng.fbuf = s.eng.fbuf ∧ t.eng.txidx = s.eng.txidx ∧
    t.eng.avail = s.eng.avail ∧ t.eng.skip = s.eng.skip ∧ t.eng.fail = s.eng.fail ∧
    t.eng.hidx = s.eng.hidx ∧ t.eng.bidx = s.eng.bidx ∧ t.eng.sum = s.eng.sum

/-- R21: a write of a defined opcode to `OP` is the only step that starts an operation, and `OP` reads
as 0x00 in every state. -/
def Obligations.OnlyOpWriteStartsOperation : Prop :=
  (∀ (a : AgentStep) (s t : State), agentStep a s = .next t →
    s.eng.fsm = .idle → t.eng.fsm ≠ .idle →
    ∃ (v : Byte) (i : Instr), a = .hostWrite 0x00 v ∧ decode v = .ok i ∧ s.busy = false ∧
      exec i s = .next t) ∧
  ∀ s : State, s.memRead 0x00 = 0x00 ∧
    agentStep (.hostRead 0x00) s = .next { s with hostLog := s.hostLog ++ [⟨0x00, 0x00⟩] }

/-- R85: no step but the Engine's own and a reset changes a running operation, whose wait counter alone
moves with the ticks. -/
def Obligations.RunningOperationIsNotCancelled : Prop :=
  ∀ (a : AgentStep) (s t : State), agentStep a s = .next t → s.busy = true →
    a ≠ .engine → a ≠ .reset →
    t.busy = true ∧ { t.eng with w := s.eng.w } = s.eng

/-! ### The transport -/

/-- R89: the discard empties the queue in one step, and a later byte is kept. -/
def Obligations.RxClearDiscardsStaleBytes : Prop :=
  ∀ s : State, s.eng.fsm = .rxClear →
    agentStep .engine s = .next { s with rx := [], eng.txidx := 0, eng.fsm := .txPush } ∧
    ∀ (t : State) (b : Byte), agentStep .engine s = .next t →
      agentStep (.rxProduce b) t = .next { t with rx := [b] }

/-- R90: a push with room appends the next frame byte, and without room the Engine holds. -/
def Obligations.TxPushAppendsOrHolds : Prop :=
  ∀ (s : State) (i : Fin 9), s.eng.fsm = .txPush → s.eng.txidx = i.val →
    (s.tx.length < Config.TX_DEPTH →
      agentStep .engine s = .next { s with
        tx := s.tx ++ [s.eng.txbuf[i]]
        eng.txidx := i.val + 1
        eng.fsm := if i.val = 8 then .txFlush else .txPush }) ∧
    (Config.TX_DEPTH ≤ s.tx.length → agentStep .engine s = .next s)

/-- R91, R83: the flush holds until the TX queue is empty; then a send-only operation completes, the
query starts to read, and a sleep or wake starts to settle. -/
def Obligations.FlushWaitsForEmptyQueue : Prop :=
  ∀ s : State, s.eng.fsm = .txFlush →
    (s.tx ≠ [] → agentStep .engine s = .next s) ∧
    (s.tx = [] → s.running = some .sendCommand ∨ s.running = some .setUploadMode →
      ∃ t, agentStep .engine s = .next t ∧
        completedAs .checkOk s.regs s.eng (bit s.regs.status TBUF_VALID) s t) ∧
    (s.tx = [] → s.running = some .queryDust →
      agentStep .engine s = .next { s with eng.rxidx := 0, eng.w := 0, eng.fsm := .rxWait }) ∧
    (s.tx = [] → s.running = some .enterSleep ∨ s.running = some .exitSleep →
      agentStep .engine s = .next { s with eng.w := 0, eng.fsm := .settle })

/-- R88: a non-blocking pop takes the head, or on an empty queue returns a free value (the model's draw,
log entry 5) and sets `RX_UNDERFLOW`. -/
def Obligations.PopOfEmptyQueueIsADraw : Prop :=
  (∀ (s : State) (b : Byte) (rest : List Byte), s.rx = b :: rest →
    s.rxPopNB = (b, { s with rx := rest })) ∧
  (∀ s : State, s.rx = [] → ∃ t, s.rxPopNB = (Config.underflowByte s.draws, t) ∧ t.rx = [] ∧
    onlySets RX_UNDERFLOW { s with draws := s.draws + 1 } t)

/-- R52, R53: the RX producer appends to a queue with room, and the TX drain moves the head of the TX
queue to the history. That a byte at a full queue is lost is the model's choice (log entry 4). -/
def Obligations.TransportAgentsMoveBytes : Prop :=
  (∀ (s : State) (b : Byte), s.rx.length < Config.RX_DEPTH →
    agentStep (.rxProduce b) s = .next { s with rx := s.rx ++ [b] }) ∧
  (∀ (s : State) (b : Byte), Config.RX_DEPTH ≤ s.rx.length →
    agentStep (.rxProduce b) s = .next s) ∧
  (∀ (s : State) (b : Byte) (rest : List Byte), s.tx = b :: rest →
    agentStep .txDrain s = .next { s with tx := rest, txlog := s.txlog ++ [b] }) ∧
  (∀ s : State, s.tx = [] → agentStep .txDrain s = .next s)

/-- R54: whichever agent moves, no sent byte is lost, repeated or reordered on its way to the history, and
the RX queue keeps its order: bytes leave it at its head, or all at once in `RX_CLEAR`, and join it at
its tail. -/
def Obligations.StreamsKeepTheirOrder : Prop :=
  ∀ (a : AgentStep) (s t : State), agentStep a s = .next t →
    (t.txlog ++ t.tx = s.txlog ++ s.tx ∨
      ∃ b, t.txlog ++ t.tx = s.txlog ++ s.tx ++ [b] ∧ a = .engine ∧ s.eng.fsm = .txPush ∧
        s.eng.txbuf[s.eng.txidx]? = some b) ∧
    (t.rx = s.rx ∨
      (∃ b, s.rx = b :: t.rx ∧ a = .engine) ∨
      (t.rx = [] ∧ a = .engine ∧ s.eng.fsm = .rxClear) ∨
      (∃ b, t.rx = s.rx ++ [b] ∧ a = .rxProduce b))

/-- R141: a tick counts in the two waits only, and saturates. -/
def Obligations.TickCountsInWaitsOnly : Prop :=
  ∀ s : State,
    ((s.eng.fsm = .settle ∨ s.eng.fsm = .rxWait) → s.eng.w < 65536 →
      agentStep .tick s = .next { s with eng.w := s.eng.w + 1 }) ∧
    (65536 ≤ s.eng.w ∨ (s.eng.fsm ≠ .settle ∧ s.eng.fsm ≠ .rxWait) →
      agentStep .tick s = .next s)

/-! ### Frames and checksums -/

/-- R64, R65, R97: the Command Frame the builder returns and its checksum law. -/
def Obligations.BuiltFrameObeysChecksumLaw : Prop :=
  ∀ c p0 p1 p2 p3 p4 : Byte, let f := buildCmd c p0 p1 p2 p3 p4
    f[0] = 0xFF ∧ f[1] = 0x01 ∧ f[2] = c ∧ f[3] = p0 ∧ f[4] = p1 ∧ f[5] = p2 ∧ f[6] = p3 ∧
    f[7] = p4 ∧ f[8] = neg8 (sum8 f.toList 1 7) ∧ sum8 f.toList 1 8 = 0 ∧
    (sum8 f.toList 1 7 = 0 → f[8] = 0x00)

/-- R70: the frame each sending operation puts in its transmit buffer, byte by byte where the spec gives
the bytes. -/
def Obligations.OperationsBuildTheirFrames : Prop :=
  ∀ s : State, s.busy = false → let g := s.regs
    (∀ t, exec .sendCommand s = .next t → ∃ cs, t.eng.txbuf =
      #v[0xFF, 0x01, g.cmd, g.p0, g.p1, g.p2, g.p3, g.p4, cs] ∧
      cs = neg8 (sum8 t.eng.txbuf.toList 1 7)) ∧
    (∀ t, exec .queryDust s = .next t → t.eng.txbuf =
      #v[0xFF, 0x01, 0x86, 0x00, 0x00, 0x00, 0x00, 0x00, 0x79]) ∧
    (∀ t, exec .enterSleep s = .next t → t.eng.txbuf =
      #v[0xFF, 0x01, 0xA7, 0x01, 0x00, 0x00, 0x00, 0x00, 0x57]) ∧
    (∀ t, exec .exitSleep s = .next t → t.eng.txbuf =
      #v[0xFF, 0x01, 0xA7, 0x00, 0x00, 0x00, 0x00, 0x00, 0x58]) ∧
    (∀ t, exec .setUploadMode s = .next t → ∃ cs, t.eng.txbuf =
      #v[0xFF, 0x01, Config.UPLOAD_MODE_CMD, g.mode, 0x00, 0x00, 0x00, 0x00, cs] ∧
      cs = neg8 (sum8 t.eng.txbuf.toList 1 7))

/-- R106: the frame each sending operation builds at its issue obeys the checksum law, and
`READ_RESPONSE` with the same nine bytes received completes with `CheckOk`. -/
def Obligations.SentFrameReadsBackOk : Prop :=
  ∀ (s : State) (i : Instr), s.busy = false →
    i = .sendCommand ∨ i = .queryDust ∨ i = .enterSleep ∨ i = .exitSleep ∨ i = .setUploadMode →
    ∃ t, exec i s = .next t ∧ let f := t.eng.txbuf
      neg8 (sum8 f.toList 1 7) = f[8] ∧ responseValid f = true ∧
      ∀ u : State, u.eng.fsm = .respEval → u.running = some .readResponse → u.eng.rbuf = f →
        ∃ v, agentStep .engine u = .next v ∧ v.regs.result = 0x00 ∧ v.regs.resp = f

/-- R107: one flipped bit in bytes 1 to 7 of a valid response is detected, a change of byte 0 never is,
and two flips can cancel. -/
def Obligations.SingleBitFlipIsDetected : Prop :=
  (∀ (r : Frame9) (i : Fin 9) (j : Nat), responseValid r = true → 1 ≤ i.val → i.val ≤ 7 → j < 8 →
    responseValid (r.set i.val (r[i] ^^^ (1#8 <<< j))) = false) ∧
  (∀ (r : Frame9) (b : Byte), responseValid (r.set 0 b) = responseValid r) ∧
  ∃ (r : Frame9) (j k : Nat), responseValid r = true ∧ j < 8 ∧ k < 8 ∧
    responseValid ((r.set 1 (r[1] ^^^ (1#8 <<< j))).set 2 (r[2] ^^^ (1#8 <<< k))) = true

/-- R69: the running sum of all 32 bytes less the last two is the sum of the first 30, for every frame,
and no sum of 32 bytes wraps. -/
def Obligations.RunningSumEqualsDirectSum : Prop :=
  ∀ f : Frame32,
    sum16 f.toList 0 31 - zext16 f[30] - zext16 f[31] = sum16 f.toList 0 29 ∧
    (sum16 f.toList 0 31).toNat = (f.toList.map BitVec.toNat).sum ∧
    (f.toList.map BitVec.toNat).sum ≤ 8160 ∧
    runningChecksumOk (sum16 f.toList 0 31) f = telemetryChecksumOk f

/-- R68: the layout and the validation law of a Telemetry Frame, as sums of numbers, with the bound on
the checksum's high byte. -/
def Obligations.TelemetryFrameLaw : Prop :=
  ∀ f : Frame32,
    (telemetryValid f = true ↔
      f[0] = 0x42 ∧ f[1] = 0x4D ∧ f[2] = 0x00 ∧ f[3] = 0x1C ∧
      f[30].toNat * 256 + f[31].toNat = ((f.toList.take 30).map BitVec.toNat).sum) ∧
    ((f.toList.take 30).map BitVec.toNat).sum ≤ 7650 ∧
    (telemetryValid f = true → f[30].toNat ≤ 0x1D)

/-! ### The transaction engine -/

/-- R92, R145: an available byte is taken whatever the wait counter says, and starts the next wait. -/
def Obligations.ReaderTakesAvailableByte : Prop :=
  ∀ (s : State) (b : Byte) (rest : List Byte) (i : Fin 9), s.eng.fsm = .rxWait →
    s.rx = b :: rest → s.eng.rxidx = i.val →
    agentStep .engine s = .next { s with
      rx := rest
      eng.rbuf := s.eng.rbuf.set i.val b
      eng.rxidx := i.val + 1
      eng.w := 0
      eng.fsm := if i.val = 8 then .respEval else .rxWait }

/-- R92, R142: with no byte, the reader holds until more than `T` ticks have passed, and then every
response-reading operation completes with `TimeoutError`, `RESP` zeroed, and the query's PM
registers too. -/
def Obligations.ReaderTimesOut : Prop :=
  ∀ (s : State) (i : Instr), s.eng.fsm = .rxWait → s.rx = [] → s.running = some i →
    readsResponse i = true →
    (s.eng.w ≤ s.eng.t.toNat → agentStep .engine s = .next s) ∧
    (s.eng.t.toNat < s.eng.w → ∃ t, agentStep .engine s = .next t ∧
      completedAs .timeoutError t.regs s.eng (bit s.regs.status TBUF_VALID) s t ∧
      t.regs.resp = Vector.replicate 9 0x00 ∧ t.regs.frameOut = s.regs.frameOut ∧
      (i = .queryDust → holdsPM t 0 0 0 0 0 0) ∧ (i ≠ .queryDust → samePM s t) ∧
      (∀ a : Byte, 0x03 ≤ a.toNat → a.toNat ≤ 0x0B → t.memRead a = s.memRead a))

/-- R108: with ticks and Engine turns only, in any order, the wait for the first byte goes on for `T`
ticks, and the Engine's turn after the next tick completes with `TimeoutError`. -/
def Obligations.TimeoutAfterExactlyTPlusOneTicks : Prop :=
  ∀ (s : State) (i : Instr) (l : List AgentStep) (rest : List Turn), s.eng.fsm = .rxWait →
    s.rx = [] → s.eng.w = 0 → s.running = some i → readsResponse i = true →
    (∀ a ∈ l, a = .tick ∨ a = .engine) → l.count .tick ≤ s.eng.t.toNat →
    run l.length { s with schedule := l.map .agent ++ rest } =
      .next { s with eng.w := l.count .tick, schedule := rest } ∧
    (l.count .tick = s.eng.t.toNat →
      ∃ t, run (l.length + 2) { s with
          schedule := l.map .agent ++ .agent .tick :: .agent .engine :: rest } = .next t ∧
        t.regs.result = 0x02 ∧ t.busy = false ∧ bit t.regs.status DONE = true ∧
        t.regs.resp = Vector.replicate 9 0x00 ∧ t.eng.fsm = .idle ∧ t.schedule = rest)

/-- R93: the settle delay lasts exactly 20 ticks for enter sleep and 45 for exit sleep, and bytes that
arrive in it stay in the queue. -/
def Obligations.SettleDelayLastsItsTicks : Prop :=
  ∀ (s : State) (n : Nat), s.eng.fsm = .settle →
    (s.running = some .enterSleep ∧ n = 20) ∨ (s.running = some .exitSleep ∧ n = 45) →
    (s.eng.w < n → agentStep .engine s = .next s) ∧
    (n ≤ s.eng.w →
      agentStep .engine s = .next { s with eng.rxidx := 0, eng.w := 0, eng.fsm := .rxWait }) ∧
    (∀ (l : List AgentStep) (rest : List Turn), s.eng.w = 0 →
      (∀ a ∈ l, a = .tick ∨ a = .engine) → l.count .tick < n →
      run l.length { s with schedule := l.map .agent ++ rest } =
        .next { s with eng.w := l.count .tick, schedule := rest }) ∧
    (∀ b : Byte, s.rx.length < Config.RX_DEPTH →
      agentStep (.rxProduce b) s = .next { s with rx := s.rx ++ [b] })

/-- R101: `READ_RESPONSE` with nine bytes received. -/
def Obligations.ReadResponseCompletes : Prop :=
  ∀ s : State, s.eng.fsm = .respEval → s.running = some .readResponse →
    ∃ t, agentStep .engine s = .next t ∧
      completedAs (if neg8 (sum8 s.eng.rbuf.toList 1 7) = s.eng.rbuf[8] then .checkOk
        else .checksumError) { s.regs with resp := s.eng.rbuf } s.eng
        (bit s.regs.status TBUF_VALID) s t

/-- R102, R67: `QUERY_DUST` with nine bytes received: the non-sequential mapping on success, and zeros
with the reader's kind or `UnexpectedReply` otherwise. -/
def Obligations.QueryDustCompletes : Prop :=
  ∀ s : State, s.eng.fsm = .respEval → s.running = some .queryDust → let r := s.eng.rbuf
    let ok := neg8 (sum8 r.toList 1 7) = r[8]
    ∃ t, agentStep .engine s = .next t ∧
      (ok ∧ r[1] = 0x86 → completedAs .checkOk { s.regs with
        resp := r, pm1_0H := r[6], pm1_0L := r[7], pm2_5H := r[2], pm2_5L := r[3],
        pm10H := r[4], pm10L := r[5] } s.eng (bit s.regs.status TBUF_VALID) s t) ∧
      (¬ (ok ∧ r[1] = 0x86) → completedAs (if r[1] ≠ 0x86 ∧ ok then .unexpectedReply
        else .checksumError) { s.regs with
        resp := r, pm1_0H := 0, pm1_0L := 0, pm2_5H := 0, pm2_5L := 0,
        pm10H := 0, pm10L := 0 } s.eng (bit s.regs.status TBUF_VALID) s t)

/-- R103, R104: `ENTER_SLEEP` and `EXIT_SLEEP` with nine bytes received: the checksum first, then the
echoed parameter at byte 2. -/
def Obligations.SleepAndWakeCheckTheEcho : Prop :=
  ∀ (s : State) (i : Instr) (param : Byte), s.eng.fsm = .respEval → s.running = some i →
    (i = .enterSleep ∧ param = 0x01) ∨ (i = .exitSleep ∧ param = 0x00) → let r := s.eng.rbuf
    ∃ t, agentStep .engine s = .next t ∧
      completedAs (if neg8 (sum8 r.toList 1 7) ≠ r[8] then .checksumError
        else if r[2] = param then .checkOk else .commandRejected)
        { s.regs with resp := r } s.eng (bit s.regs.status TBUF_VALID) s t

/-- The transmission of every sending operation, from its issue to the end of its flush, by the eager
schedule: stale bytes gone, what waited in the TX queue and then the nine frame bytes on the wire,
and the operation complete, reading or settling (R86, R100, R102 to R105; log entry 3). -/
def Obligations.IssuedFrameIsTransmitted : Prop :=
  ∀ (s : State) (i : Instr) (f : Frame9), s.busy = false → s.schedule = [] →
    (i = .sendCommand ∧ f = sendCommandFrame s.regs) ∨ (i = .queryDust ∧ f = queryDustFrame) ∨
    (i = .enterSleep ∧ f = enterSleepFrame) ∨ (i = .exitSleep ∧ f = exitSleepFrame) ∨
    (i = .setUploadMode ∧ f = setUploadModeFrame s.regs) →
    ∃ u t, exec i s = .next u ∧ run (20 + s.tx.length) u = .next t ∧
      t.txlog = s.txlog ++ s.tx ++ f.toList ∧ t.tx = [] ∧ t.rx = [] ∧
      (i = .sendCommand ∨ i = .setUploadMode → t.eng.fsm = .idle ∧ t.regs.result = 0x00 ∧
        t.busy = false ∧ bit t.regs.status DONE = true) ∧
      (i = .queryDust → t.eng.fsm = .rxWait ∧ t.eng.rxidx = 0 ∧ t.eng.w = 0 ∧ t.busy = true) ∧
      (i = .enterSleep ∨ i = .exitSleep → t.eng.fsm = .settle ∧ t.eng.w = 0 ∧ t.busy = true) ∧
      t.running = some i ∧ t.eng.t = timeoutOperand s.regs

/-- The response read of every reading operation with its nine bytes waiting, by the eager schedule:
exactly those bytes leave the queue, `RESP` holds them, and `RESULT` names the kind the operation's
rule gives (R86, R92, R101 to R104; log entry 3). -/
def Obligations.WaitingResponseIsRead : Prop :=
  ∀ (s : State) (i : Instr) (r : Frame9) (rest : List Byte), s.schedule = [] →
    s.eng.fsm = .rxWait → s.eng.rxidx = 0 → s.rx = r.toList ++ rest → s.running = some i →
    readsResponse i = true →
    ∃ t, run 10 s = .next t ∧ t.rx = rest ∧ t.regs.resp = r ∧
      t.regs.result = (responseKind i r).code ∧ t.eng.fsm = .idle ∧ t.busy = false ∧
      bit t.regs.status DONE = true ∧
      (i ≠ .queryDust → samePM s t) ∧
      (i = .queryDust → responseKind i r = .checkOk →
        holdsPM t r[6] r[7] r[2] r[3] r[4] r[5]) ∧
      (i = .queryDust → responseKind i r ≠ .checkOk → holdsPM t 0 0 0 0 0 0) ∧
      t.tx = s.tx ∧ t.txlog = s.txlog ∧ t.eng.tbuf = s.eng.tbuf

/-! ### The synchronizer -/

/-- R120's availability check: fewer than 32 bytes end the call at once and nothing is popped. -/
def Obligations.SyncStartChecksAvailability : Prop :=
  ∀ s : State, s.eng.fsm = .syncStart →
    (s.rx.length < 32 → ∃ t, agentStep .engine s = .next t ∧
      completedAs .notAvailable s.regs { s.eng with avail := s.rx.length }
        (bit s.regs.status TBUF_VALID) s t) ∧
    (32 ≤ s.rx.length → agentStep .engine s = .next { s with
      eng.avail := s.rx.length, eng.skip := 0, eng.fail := 0, eng.hidx := 0,
      eng.fsm := .syncHdr })

/-- R121: the header search at index 0, with the popped byte and the state after the pop. -/
def Obligations.HeaderSearchSkipsBytes : Prop :=
  ∀ (s p : State) (b : Byte), s.eng.fsm = .syncHdr → s.eng.hidx = 0 → s.rxPopNB = (b, p) →
    (b = 0x42 → agentStep .engine s = .next { p with
      eng.fbuf := s.eng.fbuf.set 0 b, eng.sum := b.setWidth 16, eng.hidx := 1 }) ∧
    (b ≠ 0x42 → s.eng.skip + 1 ≤ s.eng.avail - 32 →
      agentStep .engine s = .next { p with eng.skip := s.eng.skip + 1 }) ∧
    (b ≠ 0x42 → s.eng.avail - 32 < s.eng.skip + 1 → ∃ t, agentStep .engine s = .next t ∧
      completedAs .notAvailable p.regs { s.eng with skip := s.eng.skip + 1 }
        (bit s.regs.status TBUF_VALID) p t)

/-- R122: the header search at index 1 to 3, with the popped byte and the state after the pop: a
mismatch is a failed attempt, the byte is gone, and the fourth failure ends the call. -/
def Obligations.HeaderMismatchIsAFailedAttempt : Prop :=
  ∀ (s p : State) (b : Byte) (k : Fin 4), s.eng.fsm = .syncHdr → s.eng.hidx = k.val → 0 < k.val →
    s.rxPopNB = (b, p) → let want := #v[(0x42 : Byte), 0x4D, 0x00, 0x1C]
    (b = want[k] → k.val < 3 → agentStep .engine s = .next { p with
      eng.fbuf := s.eng.fbuf.set k.val b, eng.sum := s.eng.sum + b.setWidth 16,
      eng.hidx := k.val + 1 }) ∧
    (b = want[k] → k.val = 3 → agentStep .engine s = .next { p with
      eng.fbuf := s.eng.fbuf.set k.val b, eng.sum := s.eng.sum + b.setWidth 16,
      eng.bidx := 4, eng.fsm := .syncBody }) ∧
    (b ≠ want[k] → s.eng.fail + 1 ≤ 3 → agentStep .engine s = .next { p with
      eng.fail := s.eng.fail + 1, eng.hidx := 0, eng.fsm := .syncHdr }) ∧
    (b ≠ want[k] → 3 < s.eng.fail + 1 → ∃ t, agentStep .engine s = .next t ∧
      completedAs .notAvailable p.regs { s.eng with fail := s.eng.fail + 1, hidx := 0 }
        (bit s.regs.status TBUF_VALID) p t)

/-- R123: a body byte is popped whatever the RX count and joins the candidate. -/
def Obligations.BodyReadIsUnconditional : Prop :=
  ∀ (s p : State) (b : Byte) (i : Fin 32), s.eng.fsm = .syncBody → s.eng.bidx = i.val →
    s.rxPopNB = (b, p) →
    agentStep .engine s = .next { p with
      eng.fbuf := s.eng.fbuf.set i.val b, eng.sum := s.eng.sum + b.setWidth 16,
      eng.bidx := i.val + 1, eng.fsm := if i.val + 1 = 32 then .syncEval else .syncBody }

/-- R124: a checksum match fills the telemetry buffer and sets both tags; a mismatch is a failed attempt
that leaves them alone. -/
def Obligations.ChecksumDecidesTheAttempt : Prop :=
  ∀ s : State, s.eng.fsm = .syncEval →
    let c := s.eng.sum - s.eng.fbuf[30].setWidth 16 - s.eng.fbuf[31].setWidth 16
    let ok := c.extractLsb' 8 8 = s.eng.fbuf[30] ∧ c.extractLsb' 0 8 = s.eng.fbuf[31]
    (ok → ∃ t, agentStep .engine s = .next t ∧
      completedAs .checkOk s.regs { s.eng with tbuf := s.eng.fbuf, tbufValid := true } true s t) ∧
    (¬ ok → s.eng.fail + 1 ≤ 3 → agentStep .engine s = .next { s with
      eng.fail := s.eng.fail + 1, eng.hidx := 0, eng.fsm := .syncHdr }) ∧
    (¬ ok → 3 < s.eng.fail + 1 → ∃ t, agentStep .engine s = .next t ∧
      completedAs .notAvailable s.regs { s.eng with fail := s.eng.fail + 1, hidx := 0 }
        (bit s.regs.status TBUF_VALID) s t)

/-- R128, first property, for garbage of any length: bytes other than 0x42 and then a valid frame give
`CheckOk` and exactly that frame (R121 to R124; log entry 3). -/
def Obligations.FrameAfterGarbageIsFound : Prop :=
  ∀ (s : State) (g : List Byte) (f : Frame32) (rest : List Byte), s.busy = false →
    s.schedule = [] → s.rx = g ++ f.toList ++ rest → (∀ b ∈ g, b ≠ 0x42) →
    telemetryValid f = true →
    ∃ u t, exec .syncFrame s = .next u ∧ run (g.length + 34) u = .next t ∧
      t.regs.result = 0x00 ∧ t.busy = false ∧ t.eng.tbuf = f ∧ t.eng.tbufValid = true ∧
      bit t.regs.status TBUF_VALID = true ∧ t.rx = rest ∧ t.draws = s.draws ∧
      t.eng.fsm = .idle

/-- R128, second property: up to three corrupted frames before a valid one are tolerated, and a fourth
ends the call with the bytes after it left and the telemetry buffer as it was (log entry 3). -/
def Obligations.ThreeCorruptedFramesAreTolerated : Prop :=
  ∀ (s : State) (bad : List Frame32) (f : Frame32) (rest : List Byte), s.busy = false →
    s.schedule = [] → (∀ b ∈ bad, corrupted b = true) →
    (bad.length ≤ 3 → telemetryValid f = true →
      s.rx = (bad.map Vector.toList).flatten ++ f.toList ++ rest →
      ∃ u t, exec .syncFrame s = .next u ∧ run (33 * bad.length + 34) u = .next t ∧
        t.regs.result = 0x00 ∧ t.busy = false ∧ t.eng.tbuf = f ∧ t.eng.tbufValid = true ∧
        t.rx = rest) ∧
    (bad.length = 4 → s.rx = (bad.map Vector.toList).flatten ++ rest →
      ∃ u t, exec .syncFrame s = .next u ∧ run 133 u = .next t ∧ t.regs.result = 0x04 ∧
        t.busy = false ∧ t.eng.tbuf = s.eng.tbuf ∧ t.eng.tbufValid = s.eng.tbufValid ∧
        t.rx = rest)

/-- R126: a `SYNC_FRAME` call never holds and ends, whatever bytes and draws it reads, after at most
`s.avail + 96` pops, and pops at least one byte when 32 are available (log entry 3). -/
def Obligations.SyncFrameTerminates : Prop :=
  ∀ s : State, s.schedule = [] → s.eng.fsm = .syncStart → s.running = some .syncFrame →
    ∃ (n : Nat) (t : State), run n s = .next t ∧ n ≤ s.rxCount + 101 ∧ t.eng.fsm = .idle ∧
      popsBetween s t ≤ s.rxCount + 96 ∧ (32 ≤ s.rxCount → 1 ≤ popsBetween s t) ∧
      (t.regs.result = 0x00 ∨ t.regs.result = 0x04) ∧
      (t.regs.result = 0x04 → t.eng.tbuf = s.eng.tbuf ∧ t.eng.tbufValid = s.eng.tbufValid)

/-- R130: `EXTRACT_FRAME`, from its issue through its one Engine step. -/
def Obligations.ExtractCopiesAndZeroes : Prop :=
  ∀ s : State, s.busy = false →
    ∃ u t, exec .extractFrame s = .next u ∧ agentStep .engine u = .next t ∧
      completedAs .checkOk { s.regs with frameOut := s.eng.tbuf }
        { u.eng with tbuf := Vector.replicate 32 0x00, tbufValid := false } false s t

/-- R131: after an extraction, whatever steps follow, a second one leaves `FRAME_OUT` all zero unless a
`SYNC_FRAME` succeeded in between (seen as its tag, which a success sets). -/
def Obligations.SecondExtractionYieldsZeros : Prop :=
  ∀ (s s₁ t u v : State) (l : List Turn), s.eng.fsm = .extract →
    agentStep .engine s = .next s₁ → run l.length { s₁ with schedule := l } = .next t →
    (∀ (m : Nat) (w : State), m ≤ l.length → run m { s₁ with schedule := l } = .next w →
      w.eng.tbufValid = false) →
    t.busy = false → exec .extractFrame t = .next u → agentStep .engine u = .next v →
    v.regs.frameOut = Vector.replicate 32 0x00 ∧ v.regs.result = 0x00

/-! ### Reset -/

/-- R160, R161: every register and internal element at its reset value, and the queues and the history
as they were. -/
def Obligations.ResetRestoresEveryElement : Prop :=
  ∀ s : State, ∃ t, agentStep .reset s = .next t ∧
    (∀ a : Byte, a.toNat ≠ 0x03 → a.toNat ≠ 0x04 → t.memRead a = 0x00) ∧
    t.regs.status = 0x00 ∧
    (t.memRead 0x03).toNat * 256 + (t.memRead 0x04).toNat = Config.TIMEOUT_RESET.toNat ∧
    t.eng.fsm = .idle ∧ t.eng.op = 0x00 ∧ t.eng.t = 0 ∧ t.eng.txbuf = Vector.replicate 9 0x00 ∧
    t.eng.txidx = 0 ∧ t.eng.rbuf = Vector.replicate 9 0x00 ∧ t.eng.rxidx = 0 ∧ t.eng.w = 0 ∧
    t.eng.avail = 0 ∧ t.eng.skip = 0 ∧ t.eng.fail = 0 ∧ t.eng.hidx = 0 ∧ t.eng.bidx = 4 ∧
    t.eng.sum = 0 ∧ t.eng.fbuf = Vector.replicate 32 0x00 ∧
    t.eng.tbuf = Vector.replicate 32 0x00 ∧ t.eng.tbufValid = false ∧ sameOutside s t

/-- R162: the initial state is the state after one Reset step with empty queues and history. -/
def Obligations.InitialStateIsAfterReset : Prop :=
  agentStep .reset State.reset = .next State.reset ∧
  State.reset.rx = [] ∧ State.reset.tx = [] ∧ State.reset.txlog = []

/-! ### The whole machine -/

/-- The invariant holds in the initial state (R95, R129, R161). -/
def Obligations.InitialStateMeetsInv : Prop := MachineInv State.reset

/-- Every step keeps the invariant: `BUSY` and `TBUF_VALID` agree with the Engine, the counters stay in
range, a running operation is in one of its own states, and the telemetry buffer holds zeros or a
valid frame (R22, R86, R95, R129). -/
def Obligations.EveryStepKeepsInv : Prop :=
  ∀ s t : State, MachineInv s → step s = .next t → MachineInv t

/-- No condition stops the machine: from a state that meets the invariant every step answers a next
state, whichever agent moves (R140). -/
def Obligations.NoStepStopsTheMachine : Prop :=
  ∀ s : State, MachineInv s → ∃ t, step s = .next t

/-- R164, R33: no step shows a partial result: while an operation runs, and at every step of an idle
block but a reset, the result registers, `TBUF_VALID` and the telemetry buffer keep their values. -/
def Obligations.ResultsChangeAtCompletionOnly : Prop :=
  ∀ (a : AgentStep) (s t : State), agentStep a s = .next t → a ≠ .reset →
    t.eng.fsm ≠ .idle ∨ s.eng.fsm = .idle → sameResults s t

/-- R84, R71: an Engine step that ends an operation clears `BUSY`, sets `DONE`, and leaves in `RESULT` a
kind that operation produces. -/
def Obligations.CompletionStepReportsAKind : Prop :=
  ∀ s t : State, MachineInv s → s.eng.fsm ≠ .idle → agentStep .engine s = .next t →
    t.eng.fsm = .idle →
    t.busy = false ∧ bit t.regs.status DONE = true ∧
    ∃ (i : Instr) (k : ResultKind), s.running = some i ∧ produces i k = true ∧
      t.regs.result = k.code

/-- R27, R28, R29: which completion steps may write the PM registers, `RESP` and `FRAME_OUT`, and with
what. -/
def Obligations.ResultRegisterWriters : Prop :=
  ∀ (a : AgentStep) (s t : State), agentStep a s = .next t → a ≠ .reset →
    (samePM s t ∨ (a = .engine ∧ s.running = some .queryDust ∧ t.eng.fsm = .idle ∧
      ((s.eng.fsm = .respEval ∧ t.regs.result = 0x00 ∧
          holdsPM t s.eng.rbuf[6] s.eng.rbuf[7] s.eng.rbuf[2] s.eng.rbuf[3] s.eng.rbuf[4]
            s.eng.rbuf[5]) ∨
       ((s.eng.fsm = .respEval ∨ s.eng.fsm = .rxWait) ∧ t.regs.result ≠ 0x00 ∧
          holdsPM t 0 0 0 0 0 0)))) ∧
    (t.regs.resp = s.regs.resp ∨ (a = .engine ∧ t.eng.fsm = .idle ∧
      (∃ i, s.running = some i ∧ readsResponse i = true) ∧
      ((s.eng.fsm = .respEval ∧ t.regs.resp = s.eng.rbuf) ∨
       (s.eng.fsm = .rxWait ∧ t.regs.resp = Vector.replicate 9 0x00 ∧ t.regs.result = 0x02)))) ∧
    (t.regs.frameOut = s.regs.frameOut ∨
      (a = .engine ∧ s.eng.fsm = .extract ∧ t.regs.frameOut = s.eng.tbuf))

/-- R32: the telemetry buffer and its tag are written by the success of `SYNC_FRAME`, by `EXTRACT_FRAME`
and by reset, and by nothing else. -/
def Obligations.TelemetryBufferWriters : Prop :=
  ∀ (a : AgentStep) (s t : State), agentStep a s = .next t →
    (t.eng.tbuf = s.eng.tbuf ∧ t.eng.tbufValid = s.eng.tbufValid) ∨
    (a = .engine ∧ s.eng.fsm = .syncEval ∧ t.regs.result = 0x00 ∧ t.eng.tbuf = s.eng.fbuf ∧
      t.eng.tbufValid = true) ∨
    (a = .engine ∧ s.eng.fsm = .extract ∧ t.eng.tbuf = Vector.replicate 32 0x00 ∧
      t.eng.tbufValid = false) ∨
    (a = .reset ∧ t.eng.tbuf = Vector.replicate 32 0x00 ∧ t.eng.tbufValid = false)

/-- R72: every line of a host program as steps of that program. `WR` is the write of its register, `RD`
and `RD -> name` the read, `ISSUE` its operation's issue. `WAIT_IDLE` reads `STATUS`: while bit 0 of
the byte it read is 1 the line is not over, however often it has read, and at a 0 it is over. `CALL` is
the issue and then `WAIT_IDLE`, `SET_TIMEOUT` sets the pair, `CLEAR_STATUS` clears the four W1C flags,
`RX` appends its bytes and `TICK` delivers its ticks. -/
def Obligations.ProgramLinesRunAsSteps : Prop :=
  ∀ (s : State) (turns : List Turn) (rest : List ProgramOp),
    (∀ (r : RegName) (v : Byte), programStep { s with program := lineOps (.wr r v) ++ rest } =
      agentStep (.hostWrite r.addr v) { s with program := rest }) ∧
    (∀ (r : RegName) (name : String), lineOps (.rdNamed r name) = lineOps (.rd r) ∧
      programStep { s with program := lineOps (.rd r) ++ rest } = .next { s with
        hostLog := s.hostLog ++ [⟨r.addr, s.memRead r.addr⟩], program := rest }) ∧
    (∀ i : Instr, programStep { s with program := lineOps (.issue i) ++ rest } =
      exec i { s with program := rest }) ∧
    (∀ n : Nat, bit (s.memRead 0x01) 0 = true →
      run n { s with
        schedule := List.replicate n .program ++ turns
        program := lineOps .waitIdle ++ rest } = .next { s with
          hostLog := s.hostLog ++ List.replicate n ⟨0x01, s.memRead 0x01⟩
          schedule := turns
          program := lineOps .waitIdle ++ rest }) ∧
    (bit (s.memRead 0x01) 0 = false →
      programStep { s with program := lineOps .waitIdle ++ rest } = .next { s with
        hostLog := s.hostLog ++ [⟨0x01, s.memRead 0x01⟩], program := rest }) ∧
    (∀ i : Instr, programStep { s with program := lineOps (.call i) ++ rest } =
      exec i { s with program := lineOps .waitIdle ++ rest }) ∧
    (∀ v : Word16, ∃ t,
      run 2 { s with
        schedule := .program :: .program :: turns
        program := lineOps (.setTimeout v) ++ rest } = .next t ∧
      timeoutOperand t.regs = v ∧
      t = { s with
        regs.timeoutH := t.regs.timeoutH, regs.timeoutL := t.regs.timeoutL
        schedule := turns, program := rest }) ∧
    (∃ t, programStep { s with program := lineOps .clearStatus ++ rest } = .next t ∧
      t = { s with regs.status := t.regs.status, program := rest } ∧
      ∀ b < 8, bit t.regs.status b = (bit s.regs.status b && !decide (b ∈ [1, 2, 3, 5]))) ∧
    (∀ bytes : List Byte, s.rx.length + bytes.length ≤ Config.RX_DEPTH →
      run bytes.length { s with
        schedule := List.replicate bytes.length .program ++ turns
        program := lineOps (.rx bytes) ++ rest } =
          .next { s with rx := s.rx ++ bytes, schedule := turns, program := rest }) ∧
    (∀ n : Nat, (s.eng.fsm = .settle ∨ s.eng.fsm = .rxWait) → s.eng.w + n ≤ 65536 →
      run n { s with
        schedule := List.replicate n .program ++ turns
        program := lineOps (.tick n) ++ rest } =
          .next { s with eng.w := s.eng.w + n, schedule := turns, program := rest })

/-- R22, R143, R165: which step of which agent may set and which may clear each bit of `STATUS`, the
sticky flags only by a write of 1 or a reset, and `DONE` by the next start too; and that an operand
register changes only by a host write of it or a reset. -/
def Obligations.StatusAndOperandWriters : Prop :=
  ∀ (a : AgentStep) (s t : State), agentStep a s = .next t →
    (setsBit 0 s t → ∃ (v : Byte) (i : Instr), a = .hostWrite 0x00 v ∧ decode v = .ok i) ∧
    (clearsBit 0 s t → a = .reset ∨ completes a s t) ∧
    (setsBit 1 s t → completes a s t) ∧
    (clearsBit 1 s t → acknowledges 1 a ∨ ∃ (v : Byte) (i : Instr),
      a = .hostWrite 0x00 v ∧ decode v = .ok i ∧ s.busy = false) ∧
    (setsBit 2 s t → ∃ v : Byte, a = .hostWrite 0x00 v ∧ s.busy = false ∧
      (v.toNat = 0 ∨ 9 ≤ v.toNat)) ∧
    (clearsBit 2 s t → acknowledges 2 a) ∧
    (setsBit 3 s t → s.busy = true ∧ ∃ v : Byte, a = .hostWrite 0x00 v) ∧
    (clearsBit 3 s t → acknowledges 3 a) ∧
    (setsBit 4 s t → completes a s t ∧ s.eng.fsm = .syncEval ∧ t.regs.result = 0x00) ∧
    (clearsBit 4 s t → a = .reset ∨ (completes a s t ∧ s.eng.fsm = .extract)) ∧
    (setsBit 5 s t → a = .engine ∧ s.rx = [] ∧ (s.eng.fsm = .syncHdr ∨ s.eng.fsm = .syncBody)) ∧
    (clearsBit 5 s t → acknowledges 5 a) ∧
    (∀ b < 8, 6 ≤ b → ¬ setsBit b s t ∧ (clearsBit b s t → a = .reset)) ∧
    (∀ r : Byte, 0x03 ≤ r.toNat → r.toNat ≤ 0x0B → t.memRead r ≠ s.memRead r →
      a = .reset ∨ ∃ v : Byte, a = .hostWrite r v)
end

