-- ==== Sys2Proof/Laws/State.lean ====
section
/-! SUPPORT. One lemma per field per named update of the state, true by unfolding, so that no later proof
unfolds a record update. An update that writes into `regs` or `eng` says which of their fields it writes. -/

namespace Sys2Proof.Machine

variable (s : State)

/-! ### `goto` -/

@[simp] theorem goto_regs (f : Fsm) : (s.goto f).regs = s.regs := rfl
@[simp] theorem goto_eng (f : Fsm) : (s.goto f).eng = { s.eng with fsm := f } := rfl
@[simp] theorem goto_rx (f : Fsm) : (s.goto f).rx = s.rx := rfl
@[simp] theorem goto_tx (f : Fsm) : (s.goto f).tx = s.tx := rfl
@[simp] theorem goto_txlog (f : Fsm) : (s.goto f).txlog = s.txlog := rfl
@[simp] theorem goto_draws (f : Fsm) : (s.goto f).draws = s.draws := rfl
@[simp] theorem goto_schedule (f : Fsm) : (s.goto f).schedule = s.schedule := rfl
@[simp] theorem goto_program (f : Fsm) : (s.goto f).program = s.program := rfl
@[simp] theorem goto_hostLog (f : Fsm) : (s.goto f).hostLog = s.hostLog := rfl

/-! ### `setFlag` -/

@[simp] theorem setFlag_regs (i : Nat) :
    (s.setFlag i).regs = { s.regs with status := setBit s.regs.status i } := rfl
@[simp] theorem setFlag_eng (i : Nat) : (s.setFlag i).eng = s.eng := rfl
@[simp] theorem setFlag_rx (i : Nat) : (s.setFlag i).rx = s.rx := rfl
@[simp] theorem setFlag_tx (i : Nat) : (s.setFlag i).tx = s.tx := rfl
@[simp] theorem setFlag_txlog (i : Nat) : (s.setFlag i).txlog = s.txlog := rfl
@[simp] theorem setFlag_draws (i : Nat) : (s.setFlag i).draws = s.draws := rfl
@[simp] theorem setFlag_schedule (i : Nat) : (s.setFlag i).schedule = s.schedule := rfl
@[simp] theorem setFlag_program (i : Nat) : (s.setFlag i).program = s.program := rfl
@[simp] theorem setFlag_hostLog (i : Nat) : (s.setFlag i).hostLog = s.hostLog := rfl

/-! ### `clearFlag` -/

@[simp] theorem clearFlag_regs (i : Nat) :
    (s.clearFlag i).regs = { s.regs with status := clearBit s.regs.status i } := rfl
@[simp] theorem clearFlag_eng (i : Nat) : (s.clearFlag i).eng = s.eng := rfl
@[simp] theorem clearFlag_rx (i : Nat) : (s.clearFlag i).rx = s.rx := rfl
@[simp] theorem clearFlag_tx (i : Nat) : (s.clearFlag i).tx = s.tx := rfl
@[simp] theorem clearFlag_txlog (i : Nat) : (s.clearFlag i).txlog = s.txlog := rfl
@[simp] theorem clearFlag_draws (i : Nat) : (s.clearFlag i).draws = s.draws := rfl
@[simp] theorem clearFlag_schedule (i : Nat) : (s.clearFlag i).schedule = s.schedule := rfl
@[simp] theorem clearFlag_program (i : Nat) : (s.clearFlag i).program = s.program := rfl
@[simp] theorem clearFlag_hostLog (i : Nat) : (s.clearFlag i).hostLog = s.hostLog := rfl

/-! ### `rxClear` -/

@[simp] theorem rxClear_regs : (s.rxClear).regs = s.regs := rfl
@[simp] theorem rxClear_eng : (s.rxClear).eng = s.eng := rfl
@[simp] theorem rxClear_rx : (s.rxClear).rx = [] := rfl
@[simp] theorem rxClear_tx : (s.rxClear).tx = s.tx := rfl
@[simp] theorem rxClear_txlog : (s.rxClear).txlog = s.txlog := rfl
@[simp] theorem rxClear_draws : (s.rxClear).draws = s.draws := rfl
@[simp] theorem rxClear_schedule : (s.rxClear).schedule = s.schedule := rfl
@[simp] theorem rxClear_program : (s.rxClear).program = s.program := rfl
@[simp] theorem rxClear_hostLog : (s.rxClear).hostLog = s.hostLog := rfl

/-! ### `txPush` -/

@[simp] theorem txPush_regs (b : Byte) : (s.txPush b).regs = s.regs := rfl
@[simp] theorem txPush_eng (b : Byte) : (s.txPush b).eng = s.eng := rfl
@[simp] theorem txPush_rx (b : Byte) : (s.txPush b).rx = s.rx := rfl
@[simp] theorem txPush_tx (b : Byte) : (s.txPush b).tx = s.tx ++ [b] := rfl
@[simp] theorem txPush_txlog (b : Byte) : (s.txPush b).txlog = s.txlog := rfl
@[simp] theorem txPush_draws (b : Byte) : (s.txPush b).draws = s.draws := rfl
@[simp] theorem txPush_schedule (b : Byte) : (s.txPush b).schedule = s.schedule := rfl
@[simp] theorem txPush_program (b : Byte) : (s.txPush b).program = s.program := rfl
@[simp] theorem txPush_hostLog (b : Byte) : (s.txPush b).hostLog = s.hostLog := rfl

/-! ### `latchIssue` -/

@[simp] theorem latchIssue_regs (i : Instr) :
    (s.latchIssue i).regs = { s.regs with status := statusAtIssue s.regs.status } := rfl
@[simp] theorem latchIssue_eng (i : Instr) :
    (s.latchIssue i).eng = { s.eng with op := encode i, t := timeoutOperand s.regs } := rfl
@[simp] theorem latchIssue_rx (i : Instr) : (s.latchIssue i).rx = s.rx := rfl
@[simp] theorem latchIssue_tx (i : Instr) : (s.latchIssue i).tx = s.tx := rfl
@[simp] theorem latchIssue_txlog (i : Instr) : (s.latchIssue i).txlog = s.txlog := rfl
@[simp] theorem latchIssue_draws (i : Instr) : (s.latchIssue i).draws = s.draws := rfl
@[simp] theorem latchIssue_schedule (i : Instr) : (s.latchIssue i).schedule = s.schedule := rfl
@[simp] theorem latchIssue_program (i : Instr) : (s.latchIssue i).program = s.program := rfl
@[simp] theorem latchIssue_hostLog (i : Instr) : (s.latchIssue i).hostLog = s.hostLog := rfl

/-! ### `complete` -/

@[simp] theorem complete_regs (k : ResultKind) :
    (s.complete k).regs = { s.regs with result := k.code, status := statusAtCompletion s.regs.status } := rfl
@[simp] theorem complete_eng (k : ResultKind) : (s.complete k).eng = { s.eng with fsm := .idle } := rfl
@[simp] theorem complete_rx (k : ResultKind) : (s.complete k).rx = s.rx := rfl
@[simp] theorem complete_tx (k : ResultKind) : (s.complete k).tx = s.tx := rfl
@[simp] theorem complete_txlog (k : ResultKind) : (s.complete k).txlog = s.txlog := rfl
@[simp] theorem complete_draws (k : ResultKind) : (s.complete k).draws = s.draws := rfl
@[simp] theorem complete_schedule (k : ResultKind) : (s.complete k).schedule = s.schedule := rfl
@[simp] theorem complete_program (k : ResultKind) : (s.complete k).program = s.program := rfl
@[simp] theorem complete_hostLog (k : ResultKind) : (s.complete k).hostLog = s.hostLog := rfl

/-! ### `refuseBusy` -/

@[simp] theorem refuseBusy_regs :
    (s.refuseBusy).regs = { s.regs with status := setBit s.regs.status OP_WHILE_BUSY } := rfl
@[simp] theorem refuseBusy_eng : (s.refuseBusy).eng = s.eng := rfl
@[simp] theorem refuseBusy_rx : (s.refuseBusy).rx = s.rx := rfl
@[simp] theorem refuseBusy_tx : (s.refuseBusy).tx = s.tx := rfl
@[simp] theorem refuseBusy_txlog : (s.refuseBusy).txlog = s.txlog := rfl
@[simp] theorem refuseBusy_draws : (s.refuseBusy).draws = s.draws := rfl
@[simp] theorem refuseBusy_schedule : (s.refuseBusy).schedule = s.schedule := rfl
@[simp] theorem refuseBusy_program : (s.refuseBusy).program = s.program := rfl
@[simp] theorem refuseBusy_hostLog : (s.refuseBusy).hostLog = s.hostLog := rfl

/-! ### `applyReset` -/

@[simp] theorem applyReset_regs : (s.applyReset).regs = Regs.reset := rfl
@[simp] theorem applyReset_eng : (s.applyReset).eng = Engine.reset := rfl
@[simp] theorem applyReset_rx : (s.applyReset).rx = s.rx := rfl
@[simp] theorem applyReset_tx : (s.applyReset).tx = s.tx := rfl
@[simp] theorem applyReset_txlog : (s.applyReset).txlog = s.txlog := rfl
@[simp] theorem applyReset_draws : (s.applyReset).draws = s.draws := rfl
@[simp] theorem applyReset_schedule : (s.applyReset).schedule = s.schedule := rfl
@[simp] theorem applyReset_program : (s.applyReset).program = s.program := rfl
@[simp] theorem applyReset_hostLog : (s.applyReset).hostLog = s.hostLog := rfl

/-! ### `hostRead` -/

@[simp] theorem hostRead_regs (a : Byte) : (s.hostRead a).regs = s.regs := rfl
@[simp] theorem hostRead_eng (a : Byte) : (s.hostRead a).eng = s.eng := rfl
@[simp] theorem hostRead_rx (a : Byte) : (s.hostRead a).rx = s.rx := rfl
@[simp] theorem hostRead_tx (a : Byte) : (s.hostRead a).tx = s.tx := rfl
@[simp] theorem hostRead_txlog (a : Byte) : (s.hostRead a).txlog = s.txlog := rfl
@[simp] theorem hostRead_draws (a : Byte) : (s.hostRead a).draws = s.draws := rfl
@[simp] theorem hostRead_schedule (a : Byte) : (s.hostRead a).schedule = s.schedule := rfl
@[simp] theorem hostRead_program (a : Byte) : (s.hostRead a).program = s.program := rfl
@[simp] theorem hostRead_hostLog (a : Byte) :
    (s.hostRead a).hostLog = s.hostLog ++ [⟨a, s.memRead a⟩] := rfl

/-! ### `withSchedule` -/

@[simp] theorem withSchedule_regs (l : List Turn) : (s.withSchedule l).regs = s.regs := rfl
@[simp] theorem withSchedule_eng (l : List Turn) : (s.withSchedule l).eng = s.eng := rfl
@[simp] theorem withSchedule_rx (l : List Turn) : (s.withSchedule l).rx = s.rx := rfl
@[simp] theorem withSchedule_tx (l : List Turn) : (s.withSchedule l).tx = s.tx := rfl
@[simp] theorem withSchedule_txlog (l : List Turn) : (s.withSchedule l).txlog = s.txlog := rfl
@[simp] theorem withSchedule_draws (l : List Turn) : (s.withSchedule l).draws = s.draws := rfl
@[simp] theorem withSchedule_schedule (l : List Turn) : (s.withSchedule l).schedule = l := rfl
@[simp] theorem withSchedule_program (l : List Turn) : (s.withSchedule l).program = s.program := rfl
@[simp] theorem withSchedule_hostLog (l : List Turn) : (s.withSchedule l).hostLog = s.hostLog := rfl

/-! ### `withProgram` -/

@[simp] theorem withProgram_regs (p : List ProgramOp) : (s.withProgram p).regs = s.regs := rfl
@[simp] theorem withProgram_eng (p : List ProgramOp) : (s.withProgram p).eng = s.eng := rfl
@[simp] theorem withProgram_rx (p : List ProgramOp) : (s.withProgram p).rx = s.rx := rfl
@[simp] theorem withProgram_tx (p : List ProgramOp) : (s.withProgram p).tx = s.tx := rfl
@[simp] theorem withProgram_txlog (p : List ProgramOp) : (s.withProgram p).txlog = s.txlog := rfl
@[simp] theorem withProgram_draws (p : List ProgramOp) : (s.withProgram p).draws = s.draws := rfl
@[simp] theorem withProgram_schedule (p : List ProgramOp) :
    (s.withProgram p).schedule = s.schedule := rfl
@[simp] theorem withProgram_program (p : List ProgramOp) : (s.withProgram p).program = p := rfl
@[simp] theorem withProgram_hostLog (p : List ProgramOp) : (s.withProgram p).hostLog = s.hostLog := rfl

/-! ### `scheduleOp` -/

@[simp] theorem scheduleOp_regs (v : Byte) : (s.scheduleOp v).regs = s.regs := rfl
@[simp] theorem scheduleOp_eng (v : Byte) : (s.scheduleOp v).eng = s.eng := rfl
@[simp] theorem scheduleOp_rx (v : Byte) : (s.scheduleOp v).rx = s.rx := rfl
@[simp] theorem scheduleOp_tx (v : Byte) : (s.scheduleOp v).tx = s.tx := rfl
@[simp] theorem scheduleOp_txlog (v : Byte) : (s.scheduleOp v).txlog = s.txlog := rfl
@[simp] theorem scheduleOp_draws (v : Byte) : (s.scheduleOp v).draws = s.draws := rfl
@[simp] theorem scheduleOp_schedule (v : Byte) :
    (s.scheduleOp v).schedule = .agent (.hostWrite RegName.op.addr v) :: s.schedule := rfl
@[simp] theorem scheduleOp_program (v : Byte) : (s.scheduleOp v).program = s.program := rfl
@[simp] theorem scheduleOp_hostLog (v : Byte) : (s.scheduleOp v).hostLog = s.hostLog := rfl

/-! ### `startTransmit` -/

@[simp] theorem startTransmit_regs (f : Frame9) : (startTransmit f s).regs = s.regs := rfl
@[simp] theorem startTransmit_eng (f : Frame9) :
    (startTransmit f s).eng = { s.eng with txbuf := f, fsm := .rxClear } := rfl
@[simp] theorem startTransmit_rx (f : Frame9) : (startTransmit f s).rx = s.rx := rfl
@[simp] theorem startTransmit_tx (f : Frame9) : (startTransmit f s).tx = s.tx := rfl
@[simp] theorem startTransmit_txlog (f : Frame9) : (startTransmit f s).txlog = s.txlog := rfl
@[simp] theorem startTransmit_draws (f : Frame9) : (startTransmit f s).draws = s.draws := rfl
@[simp] theorem startTransmit_schedule (f : Frame9) : (startTransmit f s).schedule = s.schedule := rfl
@[simp] theorem startTransmit_program (f : Frame9) : (startTransmit f s).program = s.program := rfl
@[simp] theorem startTransmit_hostLog (f : Frame9) : (startTransmit f s).hostLog = s.hostLog := rfl

/-! ### `startReceive` -/

@[simp] theorem startReceive_regs : (startReceive s).regs = s.regs := rfl
@[simp] theorem startReceive_eng :
    (startReceive s).eng = { s.eng with rxidx := 0, w := 0, fsm := .rxWait } := rfl
@[simp] theorem startReceive_rx : (startReceive s).rx = s.rx := rfl
@[simp] theorem startReceive_tx : (startReceive s).tx = s.tx := rfl
@[simp] theorem startReceive_txlog : (startReceive s).txlog = s.txlog := rfl
@[simp] theorem startReceive_draws : (startReceive s).draws = s.draws := rfl
@[simp] theorem startReceive_schedule : (startReceive s).schedule = s.schedule := rfl
@[simp] theorem startReceive_program : (startReceive s).program = s.program := rfl
@[simp] theorem startReceive_hostLog : (startReceive s).hostLog = s.hostLog := rfl

/-! ### `recordResponse` -/

@[simp] theorem recordResponse_regs (k : ResultKind) : (recordResponse k s).regs =
    { s.regs with
      resp := if k = .timeoutError then Vector.replicate 9 0x00 else s.eng.rbuf } := rfl
@[simp] theorem recordResponse_eng (k : ResultKind) : (recordResponse k s).eng = s.eng := rfl
@[simp] theorem recordResponse_rx (k : ResultKind) : (recordResponse k s).rx = s.rx := rfl
@[simp] theorem recordResponse_tx (k : ResultKind) : (recordResponse k s).tx = s.tx := rfl
@[simp] theorem recordResponse_txlog (k : ResultKind) : (recordResponse k s).txlog = s.txlog := rfl
@[simp] theorem recordResponse_draws (k : ResultKind) : (recordResponse k s).draws = s.draws := rfl
@[simp] theorem recordResponse_schedule (k : ResultKind) :
    (recordResponse k s).schedule = s.schedule := rfl
@[simp] theorem recordResponse_program (k : ResultKind) :
    (recordResponse k s).program = s.program := rfl
@[simp] theorem recordResponse_hostLog (k : ResultKind) :
    (recordResponse k s).hostLog = s.hostLog := rfl

/-! ### `writeDust` -/

@[simp] theorem writeDust_regs (a b c : Word16) : (writeDust a b c s).regs =
    { s.regs with
      pm1_0H := hiByte a, pm1_0L := loByte a, pm2_5H := hiByte b, pm2_5L := loByte b,
      pm10H := hiByte c, pm10L := loByte c } := rfl
@[simp] theorem writeDust_eng (a b c : Word16) : (writeDust a b c s).eng = s.eng := rfl
@[simp] theorem writeDust_rx (a b c : Word16) : (writeDust a b c s).rx = s.rx := rfl
@[simp] theorem writeDust_tx (a b c : Word16) : (writeDust a b c s).tx = s.tx := rfl
@[simp] theorem writeDust_txlog (a b c : Word16) : (writeDust a b c s).txlog = s.txlog := rfl
@[simp] theorem writeDust_draws (a b c : Word16) : (writeDust a b c s).draws = s.draws := rfl
@[simp] theorem writeDust_schedule (a b c : Word16) : (writeDust a b c s).schedule = s.schedule := rfl
@[simp] theorem writeDust_program (a b c : Word16) : (writeDust a b c s).program = s.program := rfl
@[simp] theorem writeDust_hostLog (a b c : Word16) : (writeDust a b c s).hostLog = s.hostLog := rfl

/-! ### `acceptFrame` -/

@[simp] theorem acceptFrame_regs :
    (acceptFrame s).regs = { s.regs with status := setBit s.regs.status TBUF_VALID } := rfl
@[simp] theorem acceptFrame_eng :
    (acceptFrame s).eng = { s.eng with tbuf := s.eng.fbuf, tbufValid := true } := rfl
@[simp] theorem acceptFrame_rx : (acceptFrame s).rx = s.rx := rfl
@[simp] theorem acceptFrame_tx : (acceptFrame s).tx = s.tx := rfl
@[simp] theorem acceptFrame_txlog : (acceptFrame s).txlog = s.txlog := rfl
@[simp] theorem acceptFrame_draws : (acceptFrame s).draws = s.draws := rfl
@[simp] theorem acceptFrame_schedule : (acceptFrame s).schedule = s.schedule := rfl
@[simp] theorem acceptFrame_program : (acceptFrame s).program = s.program := rfl
@[simp] theorem acceptFrame_hostLog : (acceptFrame s).hostLog = s.hostLog := rfl

/-! ### The register file's own writes keep what they do not name -/

@[simp] theorem memWrite_eng (a v : Byte) : (s.memWrite a v).eng = s.eng := by
  unfold State.memWrite; split <;> rfl
@[simp] theorem memWrite_rx (a v : Byte) : (s.memWrite a v).rx = s.rx := by
  unfold State.memWrite; split <;> rfl
@[simp] theorem memWrite_tx (a v : Byte) : (s.memWrite a v).tx = s.tx := by
  unfold State.memWrite; split <;> rfl
@[simp] theorem memWrite_txlog (a v : Byte) : (s.memWrite a v).txlog = s.txlog := by
  unfold State.memWrite; split <;> rfl
@[simp] theorem memWrite_draws (a v : Byte) : (s.memWrite a v).draws = s.draws := by
  unfold State.memWrite; split <;> rfl
@[simp] theorem memWrite_schedule (a v : Byte) : (s.memWrite a v).schedule = s.schedule := by
  unfold State.memWrite; split <;> rfl
@[simp] theorem memWrite_program (a v : Byte) : (s.memWrite a v).program = s.program := by
  unfold State.memWrite; split <;> rfl
@[simp] theorem memWrite_hostLog (a v : Byte) : (s.memWrite a v).hostLog = s.hostLog := by
  unfold State.memWrite; split <;> rfl

end Sys2Proof.Machine
end

