-- ==== Sys2Proof/Laws/Flags.lean ====
section
/-! SUPPORT. What each change of `STATUS` does to each of its bits (spec/10_state.md R22). -/

namespace Sys2Proof.Machine

@[simp] theorem bit_setBit (v : Byte) (i j : Nat) (hj : j < 8) :
    bit (setBit v i) j = (bit v j || decide (j = i)) := by
  simp only [bit, setBit, BitVec.getLsbD_or, BitVec.getLsbD_shiftLeft, BitVec.getLsbD_one]
  by_cases h : j = i
  · subst h; simp [hj]
  · simp only [h, decide_false, Bool.or_false]
    by_cases h2 : j < i
    · simp [h2]
    · have : j - i ≠ 0 := by omega
      simp [this]

@[simp] theorem bit_clearBit (v : Byte) (i j : Nat) (hj : j < 8) :
    bit (clearBit v i) j = (bit v j && !decide (j = i)) := by
  simp only [bit, clearBit, BitVec.getLsbD_and, BitVec.getLsbD_not, BitVec.getLsbD_shiftLeft,
    BitVec.getLsbD_one, hj]
  by_cases h : j = i
  · subst h; simp
  · by_cases h2 : j < i
    · simp [h2, h]
    · have : j - i ≠ 0 := by omega
      simp [this, h]

@[simp] theorem bit_statusAtIssue (v : Byte) (j : Nat) (hj : j < 8) :
    bit (statusAtIssue v) j = ((bit v j || decide (j = BUSY)) && !decide (j = DONE)) := by
  simp [statusAtIssue, hj]

@[simp] theorem bit_statusAtCompletion (v : Byte) (j : Nat) (hj : j < 8) :
    bit (statusAtCompletion v) j = ((bit v j && !decide (j = BUSY)) || decide (j = DONE)) := by
  simp [statusAtCompletion, hj]

/-- A fold that clears, of a list of bits, those that are set in `v`. -/
theorem bit_foldl_clear (v : Byte) (l : List Nat) (st : Byte) (j : Nat) (hj : j < 8) :
    bit (l.foldl (fun st b => if bit v b then clearBit st b else st) st) j =
      (bit st j && !(decide (j ∈ l) && bit v j)) := by
  induction l generalizing st with
  | nil => simp
  | cons b l ih =>
    rw [List.foldl_cons, ih]
    by_cases hb : bit v b <;> by_cases h : j = b
    · subst h; simp [hb, hj]
    · simp [hb, h, hj]
    · subst h; simp [hb]
    · simp [hb, h]

/-- A host write of `v` to `STATUS` clears exactly the W1C bits that are set in `v` (R22, R41). -/
theorem bit_statusAfterWrite (st v : Byte) (j : Nat) (hj : j < 8) :
    bit (statusAfterWrite st v) j = (bit st j && !(decide (j ∈ w1cBits) && bit v j)) :=
  bit_foldl_clear v w1cBits st j hj

/-- Two bytes with the same eight bits are equal. -/
theorem byte_ext (a b : Byte) (h : ∀ j < 8, bit a j = bit b j) : a = b :=
  BitVec.eq_of_getLsbD_eq (fun i hi => h i hi)

theorem bit_statusRead (st : Byte) (j : Nat) (hj : j < 8) :
    bit (statusRead st) j = (bit st j && decide (j < 6)) := by
  have h : ∀ j < 8, bit 0x3F j = decide (j < 6) := by decide
  rw [← h j hj]
  simp [bit, statusRead]

end Sys2Proof.Machine
end

