-- ==== Sys2Proof/Laws/Ops.lean ====
section
/-! SUPPORT. For each shared operation, once, everything it can do. -/

namespace Sys2Proof.Machine

/-! ### Codes -/

theorem running_of_op (s : State) (i : Instr) (h : s.eng.op = encode i) : s.running = some i := by
  unfold State.running; rw [h]; cases i <;> rfl

theorem running_congr (s t : State) (h : t.eng.op = s.eng.op) : t.running = s.running := by
  unfold State.running; rw [h]

@[simp] theorem running_latchIssue (s : State) (i : Instr) : (s.latchIssue i).running = some i :=
  running_of_op _ i rfl

@[simp] theorem code_eq_iff (j k : ResultKind) : j.code = k.code ↔ j = k := by
  cases j <;> cases k <;> decide

/-! ### Issue -/

theorem issueOp_idle (i : Instr) (start : State → State) (s : State) (h : s.busy = false) :
    issueOp i start s = .next (start (s.latchIssue i)) := by simp [issueOp, h]

theorem issueOp_busy (i : Instr) (start : State → State) (s : State) (h : s.busy = true) :
    issueOp i start s = .next s.refuseBusy := by simp [issueOp, h]

/-- An issue either starts the operation with `BUSY` = 0, or sets one flag with `BUSY` = 1 (R80, R81). -/
theorem issueOp_cases {i : Instr} {start : State → State} {s t : State}
    (h : issueOp i start s = .next t) :
    (s.busy = false ∧ t = start (s.latchIssue i)) ∨ (s.busy = true ∧ t = s.refuseBusy) := by
  cases hb : s.busy with
  | false => rw [issueOp_idle i start s hb] at h; cases h; exact .inl ⟨rfl, rfl⟩
  | true => rw [issueOp_busy i start s hb] at h; cases h; exact .inr ⟨rfl, rfl⟩

/-- An operation's own part of the issue, by constructor (R80). -/
def startOf (g : Regs) : Instr → State → State
  | .sendCommand => startTransmit (sendCommandFrame g)
  | .readResponse => startReceive
  | .queryDust => startTransmit queryDustFrame
  | .enterSleep => startTransmit enterSleepFrame
  | .exitSleep => startTransmit exitSleepFrame
  | .setUploadMode => startTransmit (setUploadModeFrame g)
  | .syncFrame => fun s => s.goto .syncStart
  | .extractFrame => fun s => s.goto .extract

theorem exec_eq_issueOp (i : Instr) (s : State) : exec i s = issueOp i (startOf s.regs i) s := by
  cases i <;> rfl

/-- Every operation's issue answers a next state, with or without `BUSY` (R80, R81). -/
theorem exec_cases {i : Instr} {s t : State} (h : exec i s = .next t) :
    (s.busy = false ∧ t = startOf s.regs i (s.latchIssue i)) ∨ (s.busy = true ∧ t = s.refuseBusy) :=
  issueOp_cases (exec_eq_issueOp i s ▸ h)

theorem refuseUndefined_idle (s : State) (h : s.busy = false) :
    s.refuseUndefined = s.setFlag ILLEGAL_OP := by simp [State.refuseUndefined, h]

theorem refuseUndefined_busy (s : State) (h : s.busy = true) : s.refuseUndefined = s.refuseBusy := by
  simp [State.refuseUndefined, h]

/-! ### The transport -/

theorem rxPopNB_cons (s : State) (b : Byte) (rest : List Byte) (h : s.rx = b :: rest) :
    s.rxPopNB = (b, { s with rx := rest }) := by unfold State.rxPopNB; rw [h]

theorem rxPopNB_nil (s : State) (h : s.rx = []) :
    s.rxPopNB = (Config.underflowByte s.draws,
      { s.setFlag RX_UNDERFLOW with draws := s.draws + 1 }) := by unfold State.rxPopNB; rw [h]

@[simp] theorem rxPopNB_eng (s : State) : s.rxPopNB.2.eng = s.eng := by
  unfold State.rxPopNB; split <;> rfl
@[simp] theorem rxPopNB_rx (s : State) : s.rxPopNB.2.rx = s.rx.tail := by
  unfold State.rxPopNB; split <;> simp_all
@[simp] theorem rxPopNB_tx (s : State) : s.rxPopNB.2.tx = s.tx := by
  unfold State.rxPopNB; split <;> rfl
@[simp] theorem rxPopNB_txlog (s : State) : s.rxPopNB.2.txlog = s.txlog := by
  unfold State.rxPopNB; split <;> rfl
@[simp] theorem rxPopNB_schedule (s : State) : s.rxPopNB.2.schedule = s.schedule := by
  unfold State.rxPopNB; split <;> rfl
@[simp] theorem rxPopNB_program (s : State) : s.rxPopNB.2.program = s.program := by
  unfold State.rxPopNB; split <;> rfl
@[simp] theorem rxPopNB_hostLog (s : State) : s.rxPopNB.2.hostLog = s.hostLog := by
  unfold State.rxPopNB; split <;> rfl

/-- A non-blocking pop writes no register but `STATUS`. -/
theorem rxPopNB_regs (s : State) :
    s.rxPopNB.2.regs = { s.regs with status := s.rxPopNB.2.regs.status } := by
  unfold State.rxPopNB; split <;> rfl

/-- A non-blocking pop sets `RX_UNDERFLOW` when the queue is empty and changes no other flag (R88). -/
theorem rxPopNB_bit (s : State) (j : Nat) (hj : j < 8) :
    bit s.rxPopNB.2.regs.status j =
      (bit s.regs.status j || (decide (j = RX_UNDERFLOW) && s.rx.isEmpty)) := by
  unfold State.rxPopNB; split <;> simp_all

/-- A pop takes one byte from the queue or one draw, never both. -/
theorem rxPopNB_count (s : State) :
    s.rx.length + s.rxPopNB.2.draws = s.rxPopNB.2.rx.length + s.draws + 1 := by
  unfold State.rxPopNB
  split
  · simp_all; omega
  · simp_all

theorem txDrain_nil (s : State) (h : s.tx = []) : s.txDrain = s := by unfold State.txDrain; rw [h]

theorem txDrain_cons (s : State) (b : Byte) (rest : List Byte) (h : s.tx = b :: rest) :
    s.txDrain = { s with tx := rest, txlog := s.txlog ++ [b] } := by unfold State.txDrain; rw [h]

@[simp] theorem txDrain_regs (s : State) : s.txDrain.regs = s.regs := by
  unfold State.txDrain; split <;> rfl
@[simp] theorem txDrain_eng (s : State) : s.txDrain.eng = s.eng := by
  unfold State.txDrain; split <;> rfl
@[simp] theorem txDrain_rx (s : State) : s.txDrain.rx = s.rx := by
  unfold State.txDrain; split <;> rfl
@[simp] theorem txDrain_draws (s : State) : s.txDrain.draws = s.draws := by
  unfold State.txDrain; split <;> rfl
@[simp] theorem txDrain_schedule (s : State) : s.txDrain.schedule = s.schedule := by
  unfold State.txDrain; split <;> rfl
@[simp] theorem txDrain_program (s : State) : s.txDrain.program = s.program := by
  unfold State.txDrain; split <;> rfl
@[simp] theorem txDrain_hostLog (s : State) : s.txDrain.hostLog = s.hostLog := by
  unfold State.txDrain; split <;> rfl

/-- Draining moves a byte and neither loses nor reorders one (R53, R54). -/
@[simp] theorem txDrain_stream (s : State) : s.txDrain.txlog ++ s.txDrain.tx = s.txlog ++ s.tx := by
  unfold State.txDrain; split <;> simp_all

theorem rxProduce_cases (s : State) (b : Byte) :
    (s.rxCount < Config.RX_DEPTH ∧ s.rxProduce b = { s with rx := s.rx ++ [b] }) ∨
    (¬ s.rxCount < Config.RX_DEPTH ∧ s.rxProduce b = s) := by
  unfold State.rxProduce; split
  · exact .inl ⟨‹_›, rfl⟩
  · exact .inr ⟨‹_›, rfl⟩

@[simp] theorem rxProduce_regs (s : State) (b : Byte) : (s.rxProduce b).regs = s.regs := by
  unfold State.rxProduce; split <;> rfl
@[simp] theorem rxProduce_eng (s : State) (b : Byte) : (s.rxProduce b).eng = s.eng := by
  unfold State.rxProduce; split <;> rfl
@[simp] theorem rxProduce_tx (s : State) (b : Byte) : (s.rxProduce b).tx = s.tx := by
  unfold State.rxProduce; split <;> rfl
@[simp] theorem rxProduce_txlog (s : State) (b : Byte) : (s.rxProduce b).txlog = s.txlog := by
  unfold State.rxProduce; split <;> rfl
@[simp] theorem rxProduce_draws (s : State) (b : Byte) : (s.rxProduce b).draws = s.draws := by
  unfold State.rxProduce; split <;> rfl
@[simp] theorem rxProduce_schedule (s : State) (b : Byte) :
    (s.rxProduce b).schedule = s.schedule := by
  unfold State.rxProduce; split <;> rfl
@[simp] theorem rxProduce_program (s : State) (b : Byte) : (s.rxProduce b).program = s.program := by
  unfold State.rxProduce; split <;> rfl
@[simp] theorem rxProduce_hostLog (s : State) (b : Byte) : (s.rxProduce b).hostLog = s.hostLog := by
  unfold State.rxProduce; split <;> rfl

theorem tick_cases (s : State) :
    ((s.eng.fsm = .settle ∨ s.eng.fsm = .rxWait) ∧ s.eng.w < 65536 ∧
      s.tick = { s with eng.w := s.eng.w + 1 }) ∨ s.tick = s := by
  unfold State.tick; split
  · exact .inl ⟨(‹_ ∧ _›).1, (‹_ ∧ _›).2, rfl⟩
  · exact .inr rfl

/-! ### Completion -/

/-- What the completion of a response-reading operation is, by operation (R101 to R104). -/
def doneOf (k : ResultKind) (s : State) : Instr → Option State
  | .readResponse => some (readResponseDone k s)
  | .queryDust => some (queryDustDone k s)
  | .enterSleep => some (enterSleepDone k s)
  | .exitSleep => some (exitSleepDone k s)
  | .sendCommand | .setUploadMode | .syncFrame | .extractFrame => none

theorem responseDone_next {k : ResultKind} {s t : State} (h : responseDone k s = .next t) :
    ∃ i, s.running = some i ∧ doneOf k (recordResponse k s) i = some t := by
  unfold responseDone at h
  split at h <;> first | (cases h; exact ⟨_, ‹_›, rfl⟩) | cases h

theorem responseDone_eq {k : ResultKind} {s t : State} {i : Instr} (hi : s.running = some i)
    (h : doneOf k (recordResponse k s) i = some t) : responseDone k s = .next t := by
  unfold responseDone; rw [hi]; cases i <;> simp_all [doneOf]

/-- Every completion of a response-reading operation ends in `complete` with one of its kinds, over a
state that differs from the given one in the PM registers at most. -/
theorem doneOf_complete {k : ResultKind} {s t : State} {i : Instr} (h : doneOf k s i = some t) :
    ∃ (k' : ResultKind) (g : Regs), t = State.complete { s with regs := g } k' ∧
      g.status = s.regs.status ∧ g.resp = s.regs.resp ∧ g.frameOut = s.regs.frameOut ∧
      ((k = .checkOk ∨ k = .checksumError ∨ k = .timeoutError) → produces i k' = true) := by
  cases i <;> simp only [doneOf, Option.some.injEq, reduceCtorEq] at h <;> subst h
  · exact ⟨k, s.regs, rfl, rfl, rfl, rfl, by simp [produces]⟩
  · unfold queryDustDone; split
    · exact ⟨_, _, rfl, rfl, rfl, rfl, by simp [produces]⟩
    · refine ⟨_, _, rfl, rfl, rfl, rfl, ?_⟩
      cases k <;> simp [produces]
  · unfold enterSleepDone echoDone; split
    · exact ⟨_, s.regs, rfl, rfl, rfl, rfl, by simp [produces]⟩
    · exact ⟨k, s.regs, rfl, rfl, rfl, rfl, by cases k <;> simp [produces]⟩
  · unfold exitSleepDone echoDone; split
    · exact ⟨_, s.regs, rfl, rfl, rfl, rfl, by simp [produces]⟩
    · exact ⟨k, s.regs, rfl, rfl, rfl, rfl, by cases k <;> simp [produces]⟩

/-- A failed attempt goes on with the search or ends the call (R122). -/
theorem failedAttempt_cases (s : State) :
    (s.eng.fail < 3 ∧ failedAttempt s =
      { s with eng.fail := s.eng.fail + 1, eng.hidx := 0, eng.fsm := .syncHdr }) ∨
    (3 ≤ s.eng.fail ∧ failedAttempt s =
      State.complete { s with eng.fail := s.eng.fail + 1, eng.hidx := 0 } .notAvailable) := by
  unfold failedAttempt Config.FAIL_BUDGET
  by_cases h : s.eng.fail < 3
  · left; rw [if_neg (by omega)]; exact ⟨h, rfl⟩
  · right; rw [if_pos (by omega)]; exact ⟨by omega, rfl⟩

/-- A byte skip goes on with the search or ends the call (R121). -/
theorem byteSkip_cases (s : State) :
    (s.eng.skip < s.eng.avail - 32 ∧ byteSkip s = { s with eng.skip := s.eng.skip + 1 }) ∨
    (s.eng.avail - 32 ≤ s.eng.skip ∧ byteSkip s =
      State.complete { s with eng.skip := s.eng.skip + 1 } .notAvailable) := by
  unfold byteSkip; simp only [Config.FRAME_LEN]
  by_cases h : s.eng.skip < s.eng.avail - 32
  · left; rw [if_neg (by omega)]; exact ⟨h, rfl⟩
  · right; rw [if_pos (by omega)]; exact ⟨by omega, rfl⟩

end Sys2Proof.Machine
end

