-- ==== Sys2Proof/Laws/Engine.lean ====
section
/-! SUPPORT. Everything one turn of the Engine can do (spec/40_common.md R82, R83), once: later proofs
take the cases of `EngineMove` and unfold no step function. -/

namespace Sys2Proof.Machine

/-- The moves of the Engine, each with its guards. -/
inductive EngineMove (s : State) : State → Prop
  | hold (h : engineReady s = false) : EngineMove s s
  | cleared (h : s.eng.fsm = .rxClear) :
      EngineMove s { s.rxClear with eng.txidx := 0, eng.fsm := .txPush }
  | pushed (h : s.eng.fsm = .txPush) (room : s.txCount < Config.TX_DEPTH) (hi : s.eng.txidx < 9) :
      EngineMove s { s.txPush (s.eng.txbuf[s.eng.txidx]'hi) with
        eng.txidx := s.eng.txidx + 1
        eng.fsm := if s.eng.txidx + 1 = 9 then .txFlush else .txPush }
  | sent (h : s.eng.fsm = .txFlush) (e : s.tx = [])
      (hi : s.running = some .sendCommand ∨ s.running = some .setUploadMode) :
      EngineMove s (s.complete .checkOk)
  | queryFlushed (h : s.eng.fsm = .txFlush) (e : s.tx = []) (hi : s.running = some .queryDust) :
      EngineMove s (startReceive s)
  | sleepFlushed (h : s.eng.fsm = .txFlush) (e : s.tx = [])
      (hi : s.running = some .enterSleep ∨ s.running = some .exitSleep) :
      EngineMove s { s with eng.w := 0, eng.fsm := .settle }
  | settled (n : Nat) (h : s.eng.fsm = .settle) (hn : settleTicks s = some n) (hw : n ≤ s.eng.w) :
      EngineMove s (startReceive s)
  | received (b : Byte) (rest : List Byte) (h : s.eng.fsm = .rxWait) (hr : s.rx = b :: rest)
      (hi : s.eng.rxidx < 9) : EngineMove s (receiveByte b rest s hi)
  | timedOut (t : State) (i : Instr) (h : s.eng.fsm = .rxWait) (e : s.rx = [])
      (hw : s.eng.t.toNat < s.eng.w) (hi : s.running = some i)
      (hd : doneOf .timeoutError (recordResponse .timeoutError s) i = some t) : EngineMove s t
  | evaluated (t : State) (i : Instr) (k : ResultKind) (h : s.eng.fsm = .respEval)
      (hi : s.running = some i)
      (hk : k = if responseValid s.eng.rbuf then .checkOk else .checksumError)
      (hd : doneOf k (recordResponse k s) i = some t) : EngineMove s t
  | tooFew (h : s.eng.fsm = .syncStart) (hn : s.rxCount < 32) :
      EngineMove s (State.complete { s with eng.avail := s.rxCount } .notAvailable)
  | searching (h : s.eng.fsm = .syncStart) (hn : 32 ≤ s.rxCount) :
      EngineMove s { s with
        eng.avail := s.rxCount, eng.skip := 0, eng.fail := 0, eng.hidx := 0, eng.fsm := .syncHdr }
  | headerByte (h : s.eng.fsm = .syncHdr) (hi : s.eng.hidx = 0) :
      EngineMove s (headerStart s.rxPopNB.1 s.rxPopNB.2)
  | headerLater (k : Fin 4) (h : s.eng.fsm = .syncHdr) (hk : k.val = s.eng.hidx) (h0 : 0 < k.val) :
      EngineMove s (headerNext k s.rxPopNB.1 s.rxPopNB.2)
  | bodyRead (h : s.eng.fsm = .syncBody) (hi : s.rxPopNB.2.eng.bidx < 32) :
      EngineMove s (bodyByte s.rxPopNB.1 s.rxPopNB.2 hi)
  | accepted (h : s.eng.fsm = .syncEval) (hc : runningChecksumOk s.eng.sum s.eng.fbuf = true) :
      EngineMove s ((acceptFrame s).complete .checkOk)
  | rejected (h : s.eng.fsm = .syncEval) (hc : runningChecksumOk s.eng.sum s.eng.fbuf = false) :
      EngineMove s (failedAttempt s)
  | extracted (h : s.eng.fsm = .extract) :
      EngineMove s (State.complete
        { s.clearFlag TBUF_VALID with
          regs.frameOut := s.eng.tbuf
          eng.tbuf := Vector.replicate 32 0x00
          eng.tbufValid := false } .checkOk)

theorem engineReady_txPush (s : State) (h : s.eng.fsm = .txPush) :
    engineReady s = decide (s.txCount < Config.TX_DEPTH) := by
  simp [engineReady, engineEnabled, Fsm.isUnused, h]

theorem engineReady_txFlush (s : State) (h : s.eng.fsm = .txFlush) :
    engineReady s = decide (s.tx = []) := by
  simp [engineReady, engineEnabled, Fsm.isUnused, h, State.txCount]

theorem engineReady_rxWait (s : State) (h : s.eng.fsm = .rxWait) :
    engineReady s = decide (0 < s.rxCount ∨ s.eng.t.toNat < s.eng.w) := by
  simp [engineReady, engineEnabled, Fsm.isUnused, h]

theorem engineReady_settle (s : State) (n : Nat) (h : s.eng.fsm = .settle)
    (hn : settleTicks s = some n) : engineReady s = decide (n ≤ s.eng.w) := by
  simp [engineReady, engineEnabled, Fsm.isUnused, h, hn]

theorem engineReady_idle (s : State) (h : s.eng.fsm = .idle) : engineReady s = false := by
  simp [engineReady, engineEnabled, Fsm.isUnused, h]

theorem engineStep_ready (s : State) (h : engineReady s = true) : engineStep s = engineAction s := by
  simp [engineStep, h]

theorem engineStep_hold (s : State) (h : engineReady s = false) : engineStep s = .next s := by
  simp [engineStep, h]

/-- Every next state of the Engine's turn is one of its moves. -/
theorem engineStep_move {s t : State} (h : engineStep s = .next t) : EngineMove s t := by
  cases hr : engineReady s with
  | false => rw [engineStep_hold s hr] at h; cases h; exact .hold hr
  | true =>
    rw [engineStep_ready s hr] at h
    unfold engineAction at h
    split at h
    next hf => rw [engineReady_idle s hf] at hr; cases hr
    next hf => cases h; exact .cleared hf
    next hf =>
      rw [engineReady_txPush s hf] at hr
      unfold txPushStep at h
      split at h <;> cases h
      next b hb =>
        obtain ⟨hi, rfl⟩ := Vector.getElem?_eq_some_iff.mp hb
        exact .pushed hf (by simpa using hr) hi
    next hf =>
      rw [engineReady_txFlush s hf] at hr
      have e : s.tx = [] := by simpa using hr
      unfold txFlushStep at h
      split at h <;> cases h
      · exact .sent hf e (.inl ‹_›)
      · exact .sent hf e (.inr ‹_›)
      · exact .queryFlushed hf e ‹_›
      · exact .sleepFlushed hf e (.inl ‹_›)
      · exact .sleepFlushed hf e (.inr ‹_›)
    next hf =>
      unfold settleStep at h
      split at h <;> cases h
      next n hn =>
        rw [engineReady_settle s n hf hn] at hr
        exact .settled n hf hn (by simpa using hr)
    next hf =>
      rw [engineReady_rxWait s hf] at hr
      unfold rxWaitStep at h
      split at h
      next b rest hx =>
        split at h <;> cases h
        exact .received b rest hf hx ‹_›
      next hx =>
        obtain ⟨i, hi, hd⟩ := responseDone_next h
        exact .timedOut t i hf hx (by simpa [State.rxCount, hx] using hr) hi hd
    next hf =>
      obtain ⟨i, hi, hd⟩ := responseDone_next h
      exact .evaluated t i _ hf hi rfl hd
    next hf =>
      unfold syncStartStep at h
      split at h
      next hn => cases h; exact .tooFew hf hn
      next hn => cases h; exact .searching hf (Nat.le_of_not_lt hn)
    next hf =>
      unfold syncHdrStep at h
      split at h
      next hi =>
        split at h <;> cases h
        · exact .headerByte hf ‹_›
        · exact .headerLater ⟨s.eng.hidx, hi⟩ hf rfl (Nat.pos_of_ne_zero ‹_›)
      next => cases h
    next hf =>
      unfold syncBodyStep at h
      split at h <;> cases h
      exact .bodyRead hf ‹_›
    next hf =>
      unfold syncEvalStep at h
      split at h
      next hc => cases h; exact .accepted hf hc
      next hc => cases h; exact .rejected hf (Bool.eq_false_iff.mpr hc)
    next hf => cases h; exact .extracted hf
    next hf => cases h

/-! ### `STATUS` at one turn of the Engine -/

/-- What one turn of the Engine does to `STATUS` (R84, R88, R124, R130): nothing, or a completion, or the
flag of an empty pop, or both, or a completion with a change of `TBUF_VALID`. -/
inductive EngineStatus (s t : State) : Prop
  | same (h : t.regs.status = s.regs.status)
  | underflow (e : s.rx = []) (hf : s.eng.fsm = .syncHdr ∨ s.eng.fsm = .syncBody)
      (h : t.regs.status = setBit s.regs.status RX_UNDERFLOW)
  | completed (hs : s.eng.fsm ≠ .idle) (ht : t.eng.fsm = .idle)
      (h : t.regs.status = statusAtCompletion s.regs.status)
  | underflowed (hf : s.eng.fsm = .syncHdr) (ht : t.eng.fsm = .idle) (e : s.rx = [])
      (h : t.regs.status = statusAtCompletion (setBit s.regs.status RX_UNDERFLOW))
  | accepted (hf : s.eng.fsm = .syncEval) (ht : t.eng.fsm = .idle) (hr : t.regs.result = 0x00)
      (h : t.regs.status = statusAtCompletion (setBit s.regs.status TBUF_VALID))
  | extracted (hf : s.eng.fsm = .extract) (ht : t.eng.fsm = .idle)
      (h : t.regs.status = statusAtCompletion (clearBit s.regs.status TBUF_VALID))

theorem rxPopNB_status (s : State) :
    s.rxPopNB.2.regs.status = s.regs.status ∨
    (s.rx = [] ∧ s.rxPopNB.2.regs.status = setBit s.regs.status RX_UNDERFLOW) := by
  unfold State.rxPopNB
  split
  · exact .inl rfl
  · exact .inr ⟨‹_›, rfl⟩

theorem failedAttempt_status (s : State) :
    (failedAttempt s).regs.status = s.regs.status ∨
    ((failedAttempt s).eng.fsm = .idle ∧
      (failedAttempt s).regs.status = statusAtCompletion s.regs.status) := by
  rcases failedAttempt_cases s with ⟨_, h⟩ | ⟨_, h⟩ <;> rw [h]
  · exact .inl rfl
  · exact .inr ⟨rfl, rfl⟩

theorem headerStart_status (b : Byte) (s : State) :
    (headerStart b s).regs.status = s.regs.status ∨
    ((headerStart b s).eng.fsm = .idle ∧
      (headerStart b s).regs.status = statusAtCompletion s.regs.status) := by
  unfold headerStart
  split
  · exact .inl rfl
  · rcases byteSkip_cases s with ⟨_, h⟩ | ⟨_, h⟩ <;> rw [h]
    · exact .inl rfl
    · exact .inr ⟨rfl, rfl⟩

theorem headerNext_status (k : Fin 4) (b : Byte) (s : State) :
    (headerNext k b s).regs.status = s.regs.status ∨
    ((headerNext k b s).eng.fsm = .idle ∧
      (headerNext k b s).regs.status = statusAtCompletion s.regs.status) := by
  unfold headerNext
  split
  · exact failedAttempt_status s
  · split <;> exact .inl rfl

/-- A header step is a pop and then a change of `STATUS` by a completion at most. -/
theorem EngineStatus.of_header {s t : State} (hf : s.eng.fsm = .syncHdr)
    (h : t.regs.status = s.rxPopNB.2.regs.status ∨
      (t.eng.fsm = .idle ∧ t.regs.status = statusAtCompletion s.rxPopNB.2.regs.status)) :
    EngineStatus s t := by
  rcases rxPopNB_status s with hp | ⟨e, hp⟩ <;> rw [hp] at h <;> rcases h with h | ⟨ht, h⟩
  · exact .same h
  · exact .completed (by rw [hf]; decide) ht h
  · exact .underflow e (.inl hf) h
  · exact .underflowed hf ht e h

theorem EngineMove.status {s t : State} (m : EngineMove s t) : EngineStatus s t := by
  cases m with
  | sent h => exact .completed (by rw [h]; decide) rfl rfl
  | timedOut t i h _ _ _ hd | evaluated t i _ h _ _ hd =>
    obtain ⟨k, g, rfl, hg, _⟩ := doneOf_complete hd
    exact .completed (by rw [h]; decide) rfl (by simp [hg])
  | tooFew h => exact .completed (by rw [h]; decide) rfl rfl
  | headerByte h => exact .of_header h (headerStart_status _ _)
  | headerLater k h => exact .of_header h (headerNext_status _ _ _)
  | bodyRead h =>
    rcases rxPopNB_status s with hp | ⟨e, hp⟩
    · exact .same hp
    · exact .underflow e (.inr h) hp
  | accepted h => exact .accepted h rfl rfl rfl
  | rejected h =>
    rcases failedAttempt_status s with hp | ⟨ht, hp⟩
    · exact .same hp
    · exact .completed (by rw [h]; decide) ht hp
  | extracted h => exact .extracted h rfl rfl
  | hold | cleared | pushed | queryFlushed | sleepFlushed | settled | received | searching =>
    exact .same rfl

theorem engineStep_status {s t : State} (h : engineStep s = .next t) : EngineStatus s t :=
  (engineStep_move h).status

end Sys2Proof.Machine
end

