-- ==== Sys2Proof/Laws/HostPort.lean ====
section
/-! SUPPORT. The host register space: what each address is (spec/10_state.md R20) and what a write of one
register does to the others (spec/20_memory.md R41). -/

namespace Sys2Proof.Machine

theorem ofAddr_unmapped : ∀ a : Byte,
    (0x12 ≤ a.toNat ∧ a.toNat ≤ 0x1F) ∨ (0x29 ≤ a.toNat ∧ a.toNat ≤ 0x3F) ∨ 0x60 ≤ a.toNat →
    RegName.ofAddr a = none := by decide

theorem ofAddr_resp : ∀ i : Fin 9,
    RegName.ofAddr (0x20 + BitVec.ofNat 8 i.val) = some (.resp i) := by decide

theorem ofAddr_frameOut : ∀ i : Fin 32,
    RegName.ofAddr (0x40 + BitVec.ofNat 8 i.val) = some (.frameOut i) := by decide

theorem ofAddr_readOnly : ∀ a : Byte, a.toNat = 2 ∨ 0x0C ≤ a.toNat →
    ∀ r ∈ RegName.ofAddr a, r.access = .ro := by decide

theorem ofAddr_readWrite : ∀ a : Byte, 3 ≤ a.toNat ∧ a.toNat ≤ 0x0B →
    (RegName.ofAddr a).any (fun r => decide (r.access = .rw)) = true := by decide

/-- A write of a read-only register changes nothing. -/
theorem write_readOnly (g : Regs) (v : Byte) (r : RegName) (h : r.access = .ro) :
    g.write v r = g := by cases r <;> first | rfl | cases h

/-- A write of a read-write register sets it and nothing else. -/
theorem write_readWrite (g : Regs) (v : Byte) (r q : RegName) (h : r.access = .rw) :
    (g.write v r).read r = v ∧ (q ≠ r → (g.write v r).read q = g.read q) ∧
    (g.write v r).status = g.status := by
  cases r <;> first
    | (cases h; done)
    | (refine ⟨rfl, fun hq => ?_, rfl⟩; cases q <;> first | rfl | exact absurd rfl hq)

/-- No host write but one of `OP` changes a read-only result register. -/
theorem write_results (g : Regs) (v : Byte) (r : RegName) :
    (g.write v r).result = g.result ∧ (g.write v r).resp = g.resp ∧
    (g.write v r).frameOut = g.frameOut ∧ (g.write v r).pm1_0H = g.pm1_0H ∧
    (g.write v r).pm1_0L = g.pm1_0L ∧ (g.write v r).pm2_5H = g.pm2_5H ∧
    (g.write v r).pm2_5L = g.pm2_5L ∧ (g.write v r).pm10H = g.pm10H ∧
    (g.write v r).pm10L = g.pm10L := by
  cases r <;> exact ⟨rfl, rfl, rfl, rfl, rfl, rfl, rfl, rfl, rfl⟩

end Sys2Proof.Machine
end

