-- ==== Sys2Proof/Laws/Operands.lean ====
section
/-! SUPPORT. The byte pairs (spec/00_scope.md R8), as numbers and against each other. -/

namespace Sys2Proof.Machine

theorem pair_toNat (a b : Byte) : (pair a b).toNat = a.toNat * 256 + b.toNat := by
  show (a ++ b : BitVec (8 + 8)).toNat = _
  rw [BitVec.toNat_append, ← Nat.shiftLeft_add_eq_or_of_lt b.isLt, Nat.shiftLeft_eq]

theorem hiByte_toNat (v : Word16) : (hiByte v).toNat = v.toNat / 256 := by
  have := v.isLt
  simp only [hiByte, BitVec.extractLsb'_toNat, Nat.shiftRight_eq_div_pow]
  omega

theorem loByte_toNat (v : Word16) : (loByte v).toNat = v.toNat % 256 := by simp [loByte]

@[simp] theorem hiByte_pair (a b : Byte) : hiByte (pair a b) = a := by
  apply BitVec.eq_of_toNat_eq
  rw [hiByte_toNat, pair_toNat]
  have := b.isLt
  omega

@[simp] theorem loByte_pair (a b : Byte) : loByte (pair a b) = b := by
  apply BitVec.eq_of_toNat_eq
  rw [loByte_toNat, pair_toNat]
  have := b.isLt
  omega

@[simp] theorem pair_hiByte_loByte (v : Word16) : pair (hiByte v) (loByte v) = v := by
  apply BitVec.eq_of_toNat_eq
  rw [pair_toNat, hiByte_toNat, loByte_toNat]
  omega

/-- The synchronizer's comparison byte by byte is a comparison of 16-bit values (R124). -/
theorem runningChecksumOk_iff (sum : Word16) (f : Frame32) :
    runningChecksumOk sum f = true ↔ runningChecksum sum f = pair f[30] f[31] := by
  simp only [runningChecksumOk, Bool.and_eq_true, beq_iff_eq]
  constructor
  · rintro ⟨h, l⟩; rw [← h, ← l]; simp
  · intro h; rw [h]; simp

end Sys2Proof.Machine
end

