-- ==== Sys2Proof/Laws/PerInstr.lean ====
section
/-! SUPPORT. Facts stated for every instruction as syntax, one lemma per constructor. -/

namespace Sys2Proof.Laws.EncodingFixed

/-- The instruction is well formed, exactly one row of the opcode table is its row, that row selects its
encoding, and no other row does (spec/30_encoding.md R60). -/
def Statement (i : Instr) : Prop :=
  i.wellFormed = true ∧
  (opcodeTable.filter (fun r => r.instr = i)).length = 1 ∧
  ∀ r ∈ opcodeTable, r.wellFormed = true ∧ (r.selects (encode i) = true ↔ r.instr = i)

theorem sendCommand : Statement .sendCommand := by unfold Statement; decide
theorem readResponse : Statement .readResponse := by unfold Statement; decide
theorem queryDust : Statement .queryDust := by unfold Statement; decide
theorem enterSleep : Statement .enterSleep := by unfold Statement; decide
theorem exitSleep : Statement .exitSleep := by unfold Statement; decide
theorem setUploadMode : Statement .setUploadMode := by unfold Statement; decide
theorem syncFrame : Statement .syncFrame := by unfold Statement; decide
theorem extractFrame : Statement .extractFrame := by unfold Statement; decide

end Sys2Proof.Laws.EncodingFixed
end

