-- ==== Sys2Proof/Laws/Step.lean ====
section
/-! SUPPORT. What one step of the host program is, and of the machine by its schedule, and how runs of steps join. -/

namespace Sys2Proof.Machine

/-! ### The host program -/

/-- What the loop of `WAIT_IDLE` tests is `BUSY`. -/
@[simp] theorem waitIdleAgain_status (s : State) :
    waitIdleAgain (s.memRead RegName.status.addr) = s.busy := by
  show bit (statusRead s.regs.status) BUSY = bit s.regs.status BUSY
  rw [bit_statusRead _ _ (by decide)]; simp [BUSY]

theorem nextProgram_waitIdle (s : State) (rest : List ProgramOp) (h : s.program = .waitIdle :: rest) :
    s.nextProgram = if s.busy then .waitIdle :: rest else rest := by
  unfold State.nextProgram; rw [h]; simp

theorem programStep_nil (s : State) (h : s.program = []) : programStep s = .next s := by
  unfold programStep; rw [h]

theorem programStep_bus (s : State) (t : Transaction) (rest : List ProgramOp)
    (h : s.program = .bus t :: rest) :
    programStep s = agentStep (transactionStep t) (s.withProgram rest) := by
  unfold programStep State.nextProgram; rw [h]; rfl

theorem programStep_rx (s : State) (b : Byte) (rest : List ProgramOp) (h : s.program = .rx b :: rest) :
    programStep s = .next ((s.withProgram rest).rxProduce b) := by
  unfold programStep State.nextProgram; rw [h]; rfl

theorem programStep_tick (s : State) (rest : List ProgramOp) (h : s.program = .tick :: rest) :
    programStep s = .next (s.withProgram rest).tick := by
  unfold programStep State.nextProgram; rw [h]; rfl

/-- A `WAIT_IDLE` reads `STATUS`, and is done exactly when the block is idle. -/
theorem programStep_waitIdle (s : State) (rest : List ProgramOp) (h : s.program = .waitIdle :: rest) :
    programStep s = .next ((s.withProgram (if s.busy then .waitIdle :: rest else rest)).hostRead
      RegName.status.addr) := by
  rw [← nextProgram_waitIdle s rest h]; unfold programStep; rw [h]; rfl

/-- Everything a step of the host program can do: an agent's step with some program left, or nothing. -/
theorem programStep_cases {s t : State} (h : programStep s = .next t) :
    (∃ a p, agentStep a (s.withProgram p) = .next t) ∨ t = s := by
  unfold programStep at h
  split at h
  · cases h; exact .inr rfl
  · exact .inl ⟨_, _, h⟩

/-! ### One step -/

@[simp] theorem turnStep_agent (a : AgentStep) (s : State) : turnStep (.agent a) s = agentStep a s := rfl
@[simp] theorem turnStep_program (s : State) : turnStep .program s = programStep s := rfl

theorem step_cons (s : State) (u : Turn) (rest : List Turn) (h : s.schedule = u :: rest) :
    step s = turnStep u (s.withSchedule rest) := by
  unfold step nextStep; rw [h]

theorem step_engine (s : State) (h : s.schedule = []) (hr : engineReady s = true) :
    step s = engineStep s := by
  unfold step nextStep; rw [h]; simp [eagerTurn, hr, turnStep, agentStep]

theorem step_drain (s : State) (h : s.schedule = []) (hr : engineReady s = false) (ht : s.tx ≠ []) :
    step s = .next s.txDrain := by
  unfold step nextStep; rw [h]
  have : 0 < s.txCount := List.length_pos_iff.mpr ht
  simp [eagerTurn, hr, this, turnStep, agentStep]

theorem step_quiet (s : State) (h : s.schedule = []) (hr : engineReady s = false) (ht : s.tx = []) :
    step s = programStep s := by
  unfold step nextStep; rw [h]
  by_cases hp : s.program = []
  · simp [eagerTurn, hr, State.txCount, ht, hp, programStep_nil]
  · simp [eagerTurn, hr, State.txCount, ht, hp, turnStep]

theorem step_still (s : State) (h : s.schedule = []) (hr : engineReady s = false) (ht : s.tx = [])
    (hp : s.program = []) : step s = .next s := by
  rw [step_quiet s h hr ht, programStep_nil s hp]

/-- Everything a turn can do: an agent's step with some program left, or nothing. -/
theorem turnStep_cases {u : Turn} {s t : State} (h : turnStep u s = .next t) :
    (∃ a p, agentStep a (s.withProgram p) = .next t) ∨ t = s := by
  cases u with
  | agent a => exact .inl ⟨a, s.program, h⟩
  | program => exact programStep_cases h

/-- Everything a step can do: an agent's step with some turns to come and some program left, or the
schedule alone moves on. -/
theorem step_cases {s t : State} (h : step s = .next t) :
    (∃ a l p, agentStep a ((s.withSchedule l).withProgram p) = .next t) ∨
    ∃ l, t = s.withSchedule l := by
  unfold step nextStep at h
  have e : s.withSchedule s.schedule = s := rfl
  split at h
  next u rest hs =>
    rcases turnStep_cases h with ⟨a, p, h⟩ | h
    · exact .inl ⟨a, rest, p, h⟩
    · exact .inr ⟨rest, h⟩
  next hs =>
    split at h
    next u hu =>
      rcases turnStep_cases h with ⟨a, p, h⟩ | h
      · exact .inl ⟨a, s.schedule, p, h⟩
      · exact .inr ⟨s.schedule, h⟩
    next => cases h; exact .inr ⟨s.schedule, rfl⟩

/-! ### Runs -/

@[simp] theorem run_zero (s : State) : run 0 s = .next s := rfl

theorem run_succ {s t : State} (n : Nat) (h : step s = .next t) : run (n + 1) s = run n t := by
  rw [run, h]

theorem run_add {s t : State} (m n : Nat) (h : run m s = .next t) : run (m + n) s = run n t := by
  induction m generalizing s with
  | zero => cases h; simp
  | succ m ih =>
    rw [run] at h
    split at h
    · rw [show m + 1 + n = (m + n) + 1 by omega, run_succ _ ‹_›]; exact ih h
    · cases h
    · cases h

end Sys2Proof.Machine
end

