-- ==== Sys2Proof/Laws/Safety.lean ====
section
/-! SUPPORT. What the invariant's parts are made of: sums of a candidate frame's first bytes, the frames
the builder returns, and changes of state that keep the invariant whole. -/

namespace Sys2Proof.Machine

/-! ### Sums of a candidate frame -/

theorem sum_zext16_toNat (l : List Byte) (h : l.length ≤ 32) :
    ((l.map zext16).sum).toNat = (l.map BitVec.toNat).sum ∧
    (l.map BitVec.toNat).sum ≤ 255 * l.length := by
  induction l with
  | nil => simp
  | cons b l ih =>
    simp only [List.length_cons] at h
    obtain ⟨h1, h2⟩ := ih (by omega)
    have hb := b.isLt
    simp only [List.map_cons, List.sum_cons, List.length_cons, BitVec.toNat_add, h1]
    have hz : (zext16 b).toNat = b.toNat := by
      simp only [zext16, BitVec.toNat_setWidth]; omega
    rw [hz]
    omega

theorem prefixSum_toNat_le (f : Frame32) (n : Nat) (h : n ≤ 32) : (prefixSum f n).toNat ≤ 255 * n := by
  have hl : (f.toList.take n).length = n := by simp; omega
  obtain ⟨h1, h2⟩ := sum_zext16_toNat (f.toList.take n) (by omega)
  unfold prefixSum
  omega

theorem prefixSum_set_succ (f : Frame32) (n : Nat) (h : n < 32) (b : Byte) :
    prefixSum (f.set n b h) (n + 1) = prefixSum f n + zext16 b := by
  unfold prefixSum
  rw [List.take_add_one]
  simp only [Vector.toList_set, List.map_append, List.sum_append]
  rw [show (f.toList.set n b)[n]? = some b by simp [h]]
  simp [List.take_set_of_le]

theorem headerUpTo_set (f : Frame32) (n m : Nat) (h : n < 32) (b : Byte) (hm : headerUpTo f m)
    (hn : m ≤ n) : headerUpTo (f.set n b h) m := by
  intro i hi
  rw [Vector.getElem_set_ne _ _ (by omega)]
  exact hm i hi

/-- The running sum of all 32 bytes less the last two is the sum of the first 30 (R69). -/
theorem runningChecksum_prefixSum (f : Frame32) :
    runningChecksum (prefixSum f 32) f = sum16 f.toList 0 29 := by
  have e : prefixSum f 32 = sum16 f.toList 0 29 + zext16 f[30] + zext16 f[31] := by
    have e1 : f.toList.take 32 = f.toList.take 30 ++ [f[30], f[31]] := by
      rw [List.take_add_one, List.take_add_one]; simp
    unfold prefixSum sum16 span
    rw [e1]
    simp [BitVec.add_assoc]
  unfold runningChecksum
  rw [e]
  generalize sum16 f.toList 0 29 = x
  generalize zext16 f[30] = y
  generalize zext16 f[31] = z
  ring

/-! ### The frame builder -/

theorem cmdChecksum_buildCmd (c p0 p1 p2 p3 p4 : Byte) :
    cmdChecksum (buildCmd c p0 p1 p2 p3 p4) = (buildCmd c p0 p1 p2 p3 p4)[8] := by
  simp [buildCmd, cmdChecksum, sum8, span]

/-! ### The states an operation visits -/

@[simp] theorem visits_idle (i : Instr) : visits i .idle = false := by cases i <;> simp [visits]

@[simp] theorem visits_unused (i : Instr) (n : Fin 4) : visits i (.unused n) = false := by
  cases i <;> simp [visits]

/-! ### Changes that keep the invariant -/

/-- The invariant reads the registers, the Engine and the lengths of the queues only. -/
theorem MachineInv.congr {s t : State} (hi : MachineInv s) (hr : t.regs = s.regs) (he : t.eng = s.eng)
    (hx : t.rxCount ≤ Config.RX_DEPTH) (hy : t.txCount ≤ Config.TX_DEPTH) : MachineInv t := by
  obtain ⟨⟨r1, r2, r3, r4⟩, ⟨c1, c2, c3, c4, c5, c6, c7, c8, c9, c10, c11, c12, c13⟩, ⟨d1, d2, d3⟩,
    tb, ⟨x1, x2⟩, v, _, _⟩ := hi
  unfold State.busy at r2
  refine ⟨⟨?_, ?_, ?_, ?_⟩, ⟨?_, ?_, ?_, ?_, ?_, ?_, ?_, ?_, ?_, ?_, ?_, ?_, ?_⟩, ⟨?_, ?_, ?_⟩, ?_,
    ⟨?_, ?_⟩, ?_, hx, hy⟩
  all_goals simp only [hr, he, State.busy, TbufInv, State.running]
  all_goals assumption

/-- A change of the registers alone has to keep the registers' part only. -/
theorem MachineInv.of_regs {s t : State} (hi : MachineInv s) (hr : RegsInv t) (he : t.eng = s.eng)
    (hx : t.rx = s.rx) (hy : t.tx = s.tx) : MachineInv t := by
  obtain ⟨_, ⟨c1, c2, c3, c4, c5, c6, c7, c8, c9, c10, c11, c12, c13⟩, ⟨d1, d2, d3⟩, tb, ⟨x1, x2⟩,
    v, q1, q2⟩ := hi
  refine ⟨hr, ⟨?_, ?_, ?_, ?_, ?_, ?_, ?_, ?_, ?_, ?_, ?_, ?_, ?_⟩, ⟨?_, ?_, ?_⟩, ?_, ⟨?_, ?_⟩, ?_,
    ?_, ?_⟩
  all_goals simp only [he, hx, hy, TbufInv, State.running, State.rxCount, State.txCount]
  all_goals assumption

/-- A step of a running operation that leaves the registers, the telemetry buffer and the transmit
buffer alone has to keep the counters, the candidate and the state's place in the operation. -/
theorem MachineInv.of_running {s t : State} (hi : MachineInv s) (hr : t.regs = s.regs) (hop : t.eng.op = s.eng.op)
    (hc : CounterInv t) (hd : CandidateInv t) (htb : t.eng.tbuf = s.eng.tbuf)
    (htv : t.eng.tbufValid = s.eng.tbufValid) (htx : t.eng.txbuf = s.eng.txbuf)
    (hsend : t.eng.fsm.transmits = true → s.eng.fsm.transmits = true)
    (hs : s.eng.fsm ≠ .idle) (ht : t.eng.fsm ≠ .idle)
    (hv : ∀ i, s.running = some i → visits i s.eng.fsm = true → visits i t.eng.fsm = true)
    (hx : t.rxCount ≤ Config.RX_DEPTH) (hy : t.txCount ≤ Config.TX_DEPTH) : MachineInv t := by
  obtain ⟨⟨r1, r2, r3, r4⟩, _, _, tb, ⟨x1, x2⟩, v, _, _⟩ := hi
  refine ⟨⟨?_, ?_, ?_, ?_⟩, hc, hd, ?_, ⟨?_, ?_⟩, ?_, hx, hy⟩
  · rw [hr]; exact r1
  · unfold State.busy at *; rw [hr]; simp [hs, ht] at *; exact r2
  · rw [hr, htv]; exact r3
  · rw [hr]; exact r4
  · unfold TbufInv; rw [htb, htv]; exact tb
  · rw [htx]; exact x1
  · rw [htx]; exact fun h => x2 (hsend h)
  · intro _
    obtain ⟨i, h1, h2⟩ := v hs
    exact ⟨i, by rw [running_congr s t hop]; exact h1, hv i h1 h2⟩

end Sys2Proof.Machine
end

