-- ==== Sys2Proof/Tests/Slice0.lean ====
section
/-! SUPPORT. Small tests of one step each, with expected values from the spec's rules and examples, and
for every statement with hypotheses a state that meets them together. -/

namespace Sys2Proof.Tests

open Sys2Proof Sys2Proof.Machine

/-! ### Small states -/

/-- The block with an operation running in an Engine state. -/
def running (f : Fsm) (op : Byte) : State :=
  { State.reset with regs.status := 0x01, eng.fsm := f, eng.op := op }

/-- `running` with response bytes received. -/
def received (op : Byte) (r : Frame9) : State := { running .respEval op with eng.rbuf := r }

/-- `running` with bytes in the RX queue. -/
def withRx (s : State) (l : List Byte) : State := { s with rx := l }

/-- The step answers a next state with this property. -/
def nextHas (r : Result) (p : State → Bool) : Bool :=
  match r with
  | .next t => p t
  | .fault _ | .refused _ => false

/-- The query reply of R67's example. -/
def dustReply : Frame9 := #v[0xFF, 0x86, 0x00, 0x0A, 0x00, 0x14, 0x00, 0x05, 0x57]

/-- R68's example: the header, 26 zero bytes and the checksum 0x00AB. -/
def zeroFrame : Frame32 :=
  #v[0x42, 0x4D, 0x00, 0x1C, 0, 0, 0, 0, 0, 0, 0, 0, 0, 0, 0, 0,
     0, 0, 0, 0, 0, 0, 0, 0, 0, 0, 0, 0, 0, 0, 0x00, 0xAB]

/-- The same with a wrong checksum. -/
def badFrame : Frame32 := zeroFrame.set 31 0xAC

/-! ### Ill-formed terms are refused -/

theorem test_row_outside_its_mask_is_refused :
    (OpcodeRow.mk .sendCommand "SEND_COMMAND" 0x09 0x07).wellFormed = false := by decide
theorem test_table_rows_are_wellFormed : ∀ r ∈ opcodeTable, r.wellFormed = true := by decide
theorem test_table_rows_do_not_overlap :
    opcodeTable.Pairwise (fun a b => ∀ v : Byte, ¬ (a.selects v = true ∧ b.selects v = true)) := by
  decide

/-! ### Decoding: the bytes of R60's table -/

theorem test_decode_sendCommand : decode 0b00000001 = .ok .sendCommand := by rfl
theorem test_decode_readResponse : decode 0b00000010 = .ok .readResponse := by rfl
theorem test_decode_queryDust : decode 0b00000011 = .ok .queryDust := by rfl
theorem test_decode_enterSleep : decode 0b00000100 = .ok .enterSleep := by rfl
theorem test_decode_exitSleep : decode 0b00000101 = .ok .exitSleep := by rfl
theorem test_decode_setUploadMode : decode 0b00000110 = .ok .setUploadMode := by rfl
theorem test_decode_syncFrame : decode 0b00000111 = .ok .syncFrame := by rfl
theorem test_decode_extractFrame : decode 0b00001000 = .ok .extractFrame := by rfl
theorem test_decode_refuses_00 : decode 0x00 = .error (.undefinedOpcode 0x00) := by rfl
theorem test_decode_refuses_09 : decode 0x09 = .error (.undefinedOpcode 0x09) := by rfl
theorem test_decode_refuses_81 : decode 0x81 = .error (.undefinedOpcode 0x81) := by rfl
theorem test_wide_word_is_no_operation : decodeTableWord 16 0x0101 = none := by rfl

/-! ### One step of each operation -/

/-- P6 of 95_test_vectors.md: `FF 01 12 34 56 78 9A BC 95`. -/
theorem test_sendCommand_builds_its_frame :
    nextHas (exec .sendCommand { State.reset with
      regs.cmd := 0x12, regs.p0 := 0x34, regs.p1 := 0x56, regs.p2 := 0x78, regs.p3 := 0x9A,
      regs.p4 := 0xBC })
      (fun t => t.eng.txbuf == #v[0xFF, 0x01, 0x12, 0x34, 0x56, 0x78, 0x9A, 0xBC, 0x95]) = true := by
  decide

theorem test_sendCommand_completes_when_flushed :
    nextHas (agentStep .engine (running .txFlush 0x01))
      (fun t => t.regs.status == 0x02 && t.regs.result == 0x00) = true := by decide

/-- R101's example. -/
theorem test_readResponse_accepts :
    nextHas (agentStep .engine (received 0x02 dustReply))
      (fun t => t.regs.result == 0x00 && t.regs.resp == dustReply) = true := by decide

theorem test_readResponse_reports_a_bad_checksum :
    nextHas (agentStep .engine (received 0x02 (dustReply.set 8 0x58)))
      (fun t => t.regs.result == 0x01 && t.regs.resp[8] == 0x58) = true := by decide

/-- R102's example: PM1.0 = 5, PM2.5 = 10, PM10 = 20. -/
theorem test_queryDust_maps_out_of_order :
    nextHas (agentStep .engine (received 0x03 dustReply))
      (fun t => t.regs.pm1_0L == 5 && t.regs.pm2_5L == 10 && t.regs.pm10L == 20) = true := by decide

/-- V-T13 of 95_test_vectors.md: byte 1 is 0x87. -/
theorem test_queryDust_reports_an_unexpected_reply :
    nextHas (agentStep .engine
      { received 0x03 #v[0xFF, 0x87, 0x00, 0x0A, 0x00, 0x14, 0x00, 0x05, 0x56] with
        regs.pm2_5L := 7 })
      (fun t => t.regs.result == 0x05 && t.regs.pm2_5L == 0) = true := by decide

/-- R103's two examples. -/
theorem test_enterSleep_accepts_its_echo :
    nextHas (agentStep .engine (received 0x04 #v[0xFF, 0xA7, 0x01, 0, 0, 0, 0, 0, 0x58]))
      (fun t => t.regs.result == 0x00) = true := by decide

theorem test_enterSleep_rejects_another_echo :
    nextHas (agentStep .engine (received 0x04 #v[0xFF, 0xA7, 0x00, 0, 0, 0, 0, 0, 0x59]))
      (fun t => t.regs.result == 0x03) = true := by decide

/-- R104's example, and the sleep parameter echoed to a wake. -/
theorem test_exitSleep_accepts_its_echo :
    nextHas (agentStep .engine (received 0x05 #v[0xFF, 0xA7, 0x00, 0, 0, 0, 0, 0, 0x59]))
      (fun t => t.regs.result == 0x00) = true := by decide

theorem test_exitSleep_rejects_the_sleep_echo :
    nextHas (agentStep .engine (received 0x05 #v[0xFF, 0xA7, 0x01, 0, 0, 0, 0, 0, 0x58]))
      (fun t => t.regs.result == 0x03) = true := by decide

/-- R70: `MODE` at byte 3, zeros after it. -/
theorem test_setUploadMode_places_the_mode :
    nextHas (exec .setUploadMode { State.reset with regs.mode := 0x5A })
      (fun t => t.eng.txbuf[3] == 0x5A && t.eng.txbuf[4] == 0 && t.eng.fsm == .rxClear) = true := by
  decide

/-- R127: 31 bytes are too few, and none is popped. -/
theorem test_syncFrame_needs_32_bytes :
    nextHas (agentStep .engine (withRx (running .syncStart 0x07) (List.replicate 31 0x42)))
      (fun t => t.regs.result == 0x04 && t.rx.length == 31) = true := by decide

/-- R127: with 32 bytes available the skip budget is 0. -/
theorem test_syncFrame_ends_at_the_first_skip :
    nextHas (agentStep .engine { withRx (running .syncHdr 0x07) [0x00, 0x42] with eng.avail := 32 })
      (fun t => t.regs.result == 0x04 && t.rx == [0x42]) = true := by decide

/-- R130's example. -/
theorem test_extractFrame_copies_and_zeroes :
    nextHas (agentStep .engine { running .extract 0x08 with
      regs.status := 0x11, eng.tbuf := zeroFrame, eng.tbufValid := true })
      (fun t => t.regs.frameOut == zeroFrame && t.eng.tbuf == Vector.replicate 32 0 &&
        t.regs.status == 0x02) = true := by decide

/-- R88: the pop of an empty queue sets `RX_UNDERFLOW` and the call goes on. -/
theorem test_pop_of_empty_queue_sets_a_flag :
    nextHas (agentStep .engine { running .syncBody 0x07 with eng.bidx := 4 })
      (fun t => t.regs.status == 0x21 && t.draws == 1 && t.eng.bidx == 5) = true := by decide

/-- R22: only the W1C bits of `STATUS` are cleared. -/
theorem test_status_write_clears_w1c_bits_only :
    nextHas (agentStep (.hostWrite 0x01 0xFF) { State.reset with regs.status := 0x3F })
      (fun t => t.regs.status == 0x11) = true := by decide

/-- R62, R81: an undefined opcode while idle, and any opcode while busy. -/
theorem test_undefined_opcode_sets_illegal :
    nextHas (step (State.reset.withFetchWord 8 0x09)) (fun t => t.regs.status == 0x04) = true := by decide

theorem test_opcode_while_busy_sets_its_flag :
    nextHas (agentStep (.hostWrite 0x00 0x00) (running .rxWait 0x02))
      (fun t => t.regs.status == 0x09 && t.eng.fsm == .rxWait) = true := by decide

/-- R72: `CALL` is the write of `OP` and then `WAIT_IDLE`; its first step leaves the block busy and
`WAIT_IDLE` to do. -/
theorem test_call_issues_and_then_waits :
    lineOps (.call .readResponse) = [.bus (.write 0x00 0x02), .waitIdle] ∧
    nextHas (step (State.reset.load [.call .readResponse, .rd .result]))
      (fun t => t.busy && t.program == [.waitIdle, .bus (.read 0x02)]) = true := by decide

/-- R72: `if s[0] = 1 goto loop`. A `WAIT_IDLE` that reads `BUSY` = 1 is still to do. -/
theorem test_waitIdle_repeats_while_busy :
    nextHas (step ((running .rxWait 0x02).load [.waitIdle, .clearStatus]))
      (fun t => t.hostLog == [⟨0x01, 0x01⟩] && t.program == [.waitIdle, .bus (.write 0x01 0x2E)]) =
      true := by decide

/-- R72: the loop stops at `s[0]` = 0. -/
theorem test_waitIdle_stops_when_idle :
    nextHas (step ({ State.reset with regs.status := 0x02 }.load [.waitIdle, .clearStatus]))
      (fun t => t.hostLog == [⟨0x01, 0x02⟩] && t.program == [.bus (.write 0x01 0x2E)]) = true := by
  decide

/-- R173: the end state of a block that has done nothing. -/
theorem test_endState_of_reset :
    endState State.reset =
      some ⟨Regs.reset, Vector.replicate 32 0, false, [], []⟩ := by rfl

/-! ### Hypotheses are met

One theorem per statement (and per clause where a statement has several), on concrete states. -/

/-- A query that is sending its frame, in a state of its transmission. -/
def sending (f : Fsm) (op : Byte) : State := { running f op with eng.txbuf := queryDustFrame }

/-- The sending states of an operation meet the invariant. -/
theorem sending_inv (f : Fsm) (i : Instr) (hf : f = .rxClear ∨ f = .txFlush)
    (hi : visits i f = true) : MachineInv (sending f (encode i)) := by
  have hr : (sending f (encode i)).running = some i := running_of_op _ i rfl
  have z : ∀ n : Nat, 0 ≤ n := Nat.zero_le
  refine ⟨⟨?_, ?_, ?_, ⟨.checkOk, rfl⟩⟩,
    ⟨z _, z _, ?_, z _, z _, z _, z _, z _, z _, ?_, ?_, ?_, ?_⟩, ⟨?_, ?_, ?_⟩, .inl ⟨rfl, rfl⟩,
    ⟨?_, fun _ => ?_⟩, fun _ => ⟨i, hr, hi⟩, z _, z _⟩
  · show bit 0x01 6 = false ∧ bit 0x01 7 = false; decide
  · show bit 0x01 0 = true ↔ f ≠ .idle
    rcases hf with rfl | rfl <;> decide
  · show bit 0x01 4 = false; decide
  · show 4 ≤ 32; decide
  rotate_right 2
  · show cmdChecksum queryDustFrame = queryDustFrame[8]; decide
  · show queryDustFrame[0] = Config.START ∧ queryDustFrame[1] = Config.DEVID; decide
  all_goals intro h; rcases hf with rfl | rfl <;> cases h

/-! #### Encodings and the step -/

theorem witness_ResultCodesRoundTrip_reserved : 6 ≤ (6 : Byte).toNat ∧ ResultKind.ofCode 6 = none := by
  decide

theorem witness_StepRunsScheduledAgent :
    ({ State.reset with schedule := [.agent .tick] } : State).schedule = .agent .tick :: [] ∧
    ({ State.reset with schedule := [.program] } : State).schedule = .program :: [] := ⟨rfl, rfl⟩

theorem witness_StepWithoutScheduleIsEager_engine :
    (running .rxClear 0x01).schedule = [] ∧ engineReady (running .rxClear 0x01) = true := ⟨rfl, rfl⟩
theorem witness_StepWithoutScheduleIsEager_drain :
    engineReady { running .txFlush 0x01 with tx := [0xFF] } = false ∧
    ({ running .txFlush 0x01 with tx := [0xFF] } : State).tx ≠ [] := ⟨rfl, by decide⟩
theorem witness_StepWithoutScheduleIsEager_program :
    engineReady (State.reset.load [.tick 1]) = false ∧ (State.reset.load [.tick 1]).tx = [] ∧
    (State.reset.load [.tick 1]).program ≠ [] := by decide
theorem witness_StepWithoutScheduleIsEager_still :
    engineReady State.reset = false ∧ State.reset.tx = [] ∧ State.reset.program = [] := ⟨rfl, rfl, rfl⟩

theorem witness_StepRunsIssuedOperation :
    ({ State.reset with schedule := [.agent (.hostWrite 0x00 0x07)] } : State).schedule =
      .agent (.hostWrite 0x00 0x07) :: [] ∧ decode 0x07 = .ok .syncFrame := ⟨rfl, rfl⟩

/-! #### The host port -/

theorem witness_HostReadReturnsRegister_bounds :
    State.reset.memRead 0x12 = 0 ∧ State.reset.memRead 0x1F = 0 ∧ State.reset.memRead 0x29 = 0 ∧
    State.reset.memRead 0x3F = 0 ∧ State.reset.memRead 0x60 = 0 ∧ State.reset.memRead 0xFF = 0 ∧
    ({ State.reset with regs.frameOut := badFrame } : State).memRead 0x5F = 0xAC ∧
    ({ State.reset with regs.resp := dustReply } : State).memRead 0x28 = 0x57 := by decide

theorem witness_HostWriteByRegister_bounds :
    nextHas (agentStep (.hostWrite 0x03 0x11) State.reset) (fun t => t.memRead 0x03 == 0x11) = true ∧
    nextHas (agentStep (.hostWrite 0x0B 0x22) State.reset) (fun t => t.memRead 0x0B == 0x22) = true ∧
    nextHas (agentStep (.hostWrite 0x02 0x33) State.reset) (fun t => t.memRead 0x02 == 0x00) = true ∧
    nextHas (agentStep (.hostWrite 0x0C 0x44) State.reset) (fun t => t.memRead 0x0C == 0x00) = true := by
  decide

theorem witness_UnmappedAddressesAreInert :
    (0x12 ≤ (0x12 : Byte).toNat ∧ (0x12 : Byte).toNat ≤ 0x1F) ∧
    agentStep (.hostWrite 0x01 0xC0) State.reset = .next State.reset := ⟨by decide, rfl⟩

/-! #### Issue -/

theorem witness_IssueStartsOperation : State.reset.busy = false ∧ decode 0x01 = .ok .sendCommand :=
  ⟨rfl, rfl⟩
theorem witness_RefusedOpWriteSetsOneFlag_busy : (running .rxWait 0x02).busy = true := rfl
theorem witness_RefusedOpWriteSetsOneFlag_undefined :
    State.reset.busy = false ∧ (0x00 : Byte).toNat = 0 ∧ 9 ≤ (0x09 : Byte).toNat := by decide
theorem witness_IssueFrame_taken : ∃ t, exec .extractFrame State.reset = .next t := ⟨_, rfl⟩
theorem witness_IssueFrame_refused : ∃ t, exec .extractFrame (running .rxWait 0x02) = .next t := ⟨_, rfl⟩
theorem witness_OnlyOpWriteStartsOperation :
    State.reset.eng.fsm = .idle ∧
    nextHas (agentStep (.hostWrite 0x00 0x02) State.reset) (fun t => t.eng.fsm == .rxWait) = true := by
  decide
theorem witness_RunningOperationIsNotCancelled :
    (running .settle 0x04).busy = true ∧
    nextHas (agentStep .tick (running .settle 0x04)) (fun t => t.eng.w == 1) = true := by decide

/-! #### The transport -/

theorem witness_RxClearDiscardsStaleBytes :
    (running .rxClear 0x01).eng.fsm = .rxClear ∧
    ∃ t, agentStep .engine (running .rxClear 0x01) = .next t := ⟨rfl, _, rfl⟩
theorem witness_TxPushAppendsOrHolds_room :
    (running .txPush 0x01).eng.fsm = .txPush ∧ (running .txPush 0x01).eng.txidx = (0 : Fin 9).val ∧
    (running .txPush 0x01).tx.length < Config.TX_DEPTH := ⟨rfl, rfl, Nat.succ_pos _⟩
theorem witness_TxPushAppendsOrHolds_full :
    Config.TX_DEPTH ≤
      ({ running .txPush 0x01 with tx := List.replicate Config.TX_DEPTH 0xFF } : State).tx.length := by
  simp
theorem witness_FlushWaitsForEmptyQueue_waits :
    ({ running .txFlush 0x01 with tx := [0x79] } : State).tx ≠ [] := by decide
theorem witness_FlushWaitsForEmptyQueue_completes :
    (running .txFlush 0x01).tx = [] ∧ (running .txFlush 0x01).running = some .sendCommand ∧
    (running .txFlush 0x06).running = some .setUploadMode := ⟨rfl, rfl, rfl⟩
theorem witness_FlushWaitsForEmptyQueue_reads :
    (running .txFlush 0x03).running = some .queryDust := rfl
theorem witness_FlushWaitsForEmptyQueue_settles :
    (running .txFlush 0x04).running = some .enterSleep ∧
    (running .txFlush 0x05).running = some .exitSleep := ⟨rfl, rfl⟩
theorem witness_PopOfEmptyQueueIsADraw :
    (withRx State.reset [0x42]).rx = 0x42 :: [] ∧ State.reset.rx = [] := ⟨rfl, rfl⟩
theorem witness_TransportAgentsMoveBytes_room : State.reset.rx.length < Config.RX_DEPTH :=
  Nat.succ_pos _
theorem witness_TransportAgentsMoveBytes_full :
    Config.RX_DEPTH ≤ (withRx State.reset (List.replicate Config.RX_DEPTH 0)).rx.length := by
  simp [withRx]
theorem witness_TransportAgentsMoveBytes_drain :
    ({ State.reset with tx := [0xFF] } : State).tx = 0xFF :: [] ∧ State.reset.tx = [] := ⟨rfl, rfl⟩
theorem witness_StreamsKeepTheirOrder : ∃ t, agentStep .engine (running .txPush 0x01) = .next t :=
  ⟨_, rfl⟩
theorem witness_TickCountsInWaitsOnly :
    ({ running .rxWait 0x02 with eng.w := 65535 } : State).eng.w < 65536 ∧
    65536 ≤ ({ running .rxWait 0x02 with eng.w := 65536 } : State).eng.w ∧
    State.reset.eng.fsm ≠ .settle ∧ State.reset.eng.fsm ≠ .rxWait := by decide

/-! #### Frames and checksums -/

theorem witness_BuiltFrameObeysChecksumLaw_zero_sum :
    sum8 (buildCmd 0xFF 0 0 0 0 0).toList 1 7 = 0 := by decide
theorem witness_OperationsBuildTheirFrames :
    State.reset.busy = false ∧ (∃ t, exec .sendCommand State.reset = .next t) ∧
    (∃ t, exec .queryDust State.reset = .next t) ∧ (∃ t, exec .enterSleep State.reset = .next t) ∧
    (∃ t, exec .exitSleep State.reset = .next t) ∧ ∃ t, exec .setUploadMode State.reset = .next t :=
  ⟨rfl, ⟨_, rfl⟩, ⟨_, rfl⟩, ⟨_, rfl⟩, ⟨_, rfl⟩, ⟨_, rfl⟩⟩
theorem witness_SentFrameReadsBackOk :
    State.reset.busy = false ∧
    nextHas (exec .queryDust State.reset) (fun t => t.eng.txbuf == queryDustFrame) = true ∧
    (received 0x02 queryDustFrame).eng.fsm = .respEval ∧
    (received 0x02 queryDustFrame).running = some .readResponse ∧
    (received 0x02 queryDustFrame).eng.rbuf = queryDustFrame := by decide
theorem witness_SingleBitFlipIsDetected :
    responseValid dustReply = true ∧
    responseValid (dustReply.set 7 (dustReply[7] ^^^ (1#8 <<< 7))) = false ∧
    responseValid (dustReply.set 1 (dustReply[1] ^^^ (1#8 <<< 0))) = false := by decide
theorem witness_TelemetryFrameLaw :
    telemetryValid zeroFrame = true ∧ telemetryValid badFrame = false := by decide

/-! #### The transaction engine -/

theorem witness_ReaderTakesAvailableByte :
    (withRx (running .rxWait 0x02) [0xFF]).eng.fsm = .rxWait ∧
    (withRx (running .rxWait 0x02) [0xFF]).rx = 0xFF :: [] ∧
    (withRx (running .rxWait 0x02) [0xFF]).eng.rxidx = (0 : Fin 9).val ∧
    ({ running .rxWait 0x02 with eng.rxidx := 8 } : State).eng.rxidx = (8 : Fin 9).val :=
  ⟨rfl, rfl, rfl, rfl⟩
theorem witness_ReaderTimesOut :
    (running .rxWait 0x03).eng.fsm = .rxWait ∧ (running .rxWait 0x03).rx = [] ∧
    (running .rxWait 0x03).running = some .queryDust ∧ readsResponse .queryDust = true ∧
    (running .rxWait 0x03).eng.w ≤ (running .rxWait 0x03).eng.t.toNat ∧
    ({ running .rxWait 0x03 with eng.t := 10, eng.w := 11 } : State).eng.t.toNat < 11 := by decide
theorem witness_TimeoutAfterExactlyTPlusOneTicks :
    let s := { running .rxWait 0x02 with eng.t := 2 }
    s.eng.fsm = .rxWait ∧ s.rx = [] ∧ s.eng.w = 0 ∧ s.running = some .readResponse ∧
    readsResponse .readResponse = true ∧
    (∀ a ∈ [AgentStep.tick, .engine, .tick], a = .tick ∨ a = .engine) ∧
    [AgentStep.tick, .engine, .tick].count .tick ≤ s.eng.t.toNat ∧
    [AgentStep.tick, .engine, .tick].count .tick = s.eng.t.toNat := by decide
theorem witness_SettleDelayLastsItsTicks :
    (running .settle 0x04).eng.fsm = .settle ∧ (running .settle 0x04).running = some .enterSleep ∧
    (running .settle 0x05).running = some .exitSleep ∧
    ({ running .settle 0x04 with eng.w := 19 } : State).eng.w < 20 ∧
    20 ≤ ({ running .settle 0x04 with eng.w := 20 } : State).eng.w ∧
    (running .settle 0x04).eng.w = 0 ∧ [AgentStep.tick, .engine].count .tick < 20 ∧
    (∀ a ∈ [AgentStep.tick, .engine], a = .tick ∨ a = .engine) := by decide
theorem witness_ReadResponseCompletes :
    (received 0x02 dustReply).eng.fsm = .respEval ∧
    (received 0x02 dustReply).running = some .readResponse := ⟨rfl, rfl⟩
theorem witness_QueryDustCompletes :
    (received 0x03 dustReply).eng.fsm = .respEval ∧ (received 0x03 dustReply).running = some .queryDust ∧
    neg8 (sum8 dustReply.toList 1 7) = dustReply[8] ∧ dustReply[1] = 0x86 ∧
    ¬ (neg8 (sum8 (dustReply.set 8 0x58).toList 1 7) = (dustReply.set 8 0x58)[8]) := by decide
theorem witness_SleepAndWakeCheckTheEcho :
    (received 0x04 dustReply).eng.fsm = .respEval ∧
    (received 0x04 dustReply).running = some .enterSleep ∧
    (received 0x05 dustReply).running = some .exitSleep := ⟨rfl, rfl, rfl⟩
theorem witness_IssuedFrameIsTransmitted :
    ({ State.reset with tx := [0x01] } : State).busy = false ∧
    ({ State.reset with tx := [0x01] } : State).schedule = [] := ⟨rfl, rfl⟩
theorem witness_WaitingResponseIsRead :
    let s := withRx (running .rxWait 0x03) (dustReply.toList ++ [0x77])
    s.schedule = [] ∧ s.eng.fsm = .rxWait ∧ s.eng.rxidx = 0 ∧ s.rx = dustReply.toList ++ [0x77] ∧
    s.running = some .queryDust ∧ readsResponse .queryDust = true ∧
    responseKind .queryDust dustReply = .checkOk ∧
    responseKind .queryDust (dustReply.set 8 0) ≠ .checkOk := by decide

/-! #### The synchronizer -/

theorem witness_SyncStartChecksAvailability :
    (running .syncStart 0x07).eng.fsm = .syncStart ∧
    (withRx (running .syncStart 0x07) (List.replicate 31 0)).rx.length < 32 ∧
    32 ≤ (withRx (running .syncStart 0x07) (List.replicate 32 0)).rx.length := by decide
theorem witness_HeaderSearchSkipsBytes :
    let s := { withRx (running .syncHdr 0x07) [0x00] with eng.avail := 33 }
    s.eng.fsm = .syncHdr ∧ s.eng.hidx = 0 ∧ s.rxPopNB = (0x00, { s with rx := [] }) ∧
    (withRx s [0x42]).rxPopNB = (0x42, { s with rx := [] }) ∧
    (0x00 : Byte) ≠ 0x42 ∧ s.eng.skip + 1 ≤ s.eng.avail - 32 ∧
    ({ s with eng.skip := 1 } : State).eng.avail - 32 < 1 + 1 := by
  refine ⟨rfl, rfl, rfl, rfl, ?_, ?_, ?_⟩ <;> decide
theorem witness_HeaderMismatchIsAFailedAttempt :
    let s := { withRx (running .syncHdr 0x07) [0x4D] with eng.hidx := 1, eng.fail := 2 }
    s.eng.fsm = .syncHdr ∧ s.eng.hidx = (1 : Fin 4).val ∧ 0 < (1 : Fin 4).val ∧
    s.rxPopNB = (0x4D, { s with rx := [] }) ∧
    (withRx s [0x42]).rxPopNB = (0x42, { s with rx := [] }) ∧
    ({ s with eng.hidx := 3 } : State).eng.hidx = (3 : Fin 4).val ∧ s.eng.fail + 1 ≤ 3 ∧
    3 < ({ s with eng.fail := 3 } : State).eng.fail + 1 := by
  refine ⟨rfl, rfl, ?_, rfl, rfl, rfl, ?_, ?_⟩ <;> decide
theorem witness_BodyReadIsUnconditional :
    let s := { running .syncBody 0x07 with eng.bidx := 31 }
    s.eng.fsm = .syncBody ∧ s.eng.bidx = (31 : Fin 32).val ∧
    s.rxPopNB = (Config.underflowByte 0, { s.setFlag RX_UNDERFLOW with draws := 1 }) :=
  ⟨rfl, rfl, rfl⟩
theorem witness_ChecksumDecidesTheAttempt :
    let s := { running .syncEval 0x07 with eng.fbuf := zeroFrame, eng.sum := 0x0156 }
    s.eng.fsm = .syncEval ∧ runningChecksumOk s.eng.sum zeroFrame = true ∧
    runningChecksumOk s.eng.sum badFrame = false ∧ s.eng.fail + 1 ≤ 3 ∧
    3 < ({ s with eng.fail := 3 } : State).eng.fail + 1 := by decide
theorem witness_FrameAfterGarbageIsFound :
    let s := withRx State.reset ([0x11, 0x22] ++ zeroFrame.toList ++ [0x99])
    s.busy = false ∧ s.schedule = [] ∧ s.rx = [0x11, 0x22] ++ zeroFrame.toList ++ [0x99] ∧
    (∀ b ∈ [(0x11 : Byte), 0x22], b ≠ 0x42) ∧ telemetryValid zeroFrame = true := by decide
theorem witness_ThreeCorruptedFramesAreTolerated :
    corrupted badFrame = true ∧ telemetryValid zeroFrame = true ∧
    (∀ (n : Nat), ∀ b ∈ List.replicate n badFrame, corrupted b = true) ∧
    (List.replicate 3 badFrame).length ≤ 3 ∧ (List.replicate 4 badFrame).length = 4 := by
  refine ⟨by decide, by decide, fun n b hb => ?_, by simp, by simp⟩
  rw [List.eq_of_mem_replicate hb]; decide
theorem witness_SyncFrameTerminates :
    let s := withRx (running .syncStart 0x07) (List.replicate 32 0x42)
    s.schedule = [] ∧ s.eng.fsm = .syncStart ∧ s.running = some .syncFrame ∧ 32 ≤ s.rxCount := by decide
theorem witness_ExtractCopiesAndZeroes : State.reset.busy = false := rfl
theorem witness_SecondExtractionYieldsZeros :
    let s := { running .extract 0x08 with eng.tbuf := zeroFrame, eng.tbufValid := true }
    s.eng.fsm = .extract ∧ ∃ s₁ t u v, agentStep .engine s = .next s₁ ∧
      run 1 { s₁ with schedule := [.agent .tick] } = .next t ∧
      (∀ (m : Nat) (w : State), m ≤ 1 → run m { s₁ with schedule := [.agent .tick] } = .next w →
        w.eng.tbufValid = false) ∧
      t.busy = false ∧ exec .extractFrame t = .next u ∧ agentStep .engine u = .next v := by
  refine ⟨rfl, _, _, _, _, rfl, rfl, fun m w hm h => ?_, rfl, rfl, rfl⟩
  interval_cases m <;> cases h <;> rfl

/-! #### The whole machine -/

theorem witness_EveryStepKeepsInv :
    MachineInv (sending .rxClear (encode .queryDust)) ∧
    ∃ t, step (sending .rxClear (encode .queryDust)) = .next t :=
  ⟨sending_inv _ _ (.inl rfl) rfl, _, rfl⟩
theorem witness_NoStepStopsTheMachine : MachineInv (sending .txFlush (encode .enterSleep)) :=
  sending_inv _ _ (.inr rfl) rfl
theorem witness_ResultsChangeAtCompletionOnly :
    nextHas (agentStep .engine (running .rxClear 0x03)) (fun t => t.eng.fsm != .idle) = true ∧
    State.reset.eng.fsm = .idle := by decide
theorem witness_CompletionStepReportsAKind :
    MachineInv (sending .txFlush (encode .sendCommand)) ∧
    (sending .txFlush (encode .sendCommand)).eng.fsm ≠ .idle ∧
    nextHas (agentStep .engine (sending .txFlush (encode .sendCommand)))
      (fun t => t.eng.fsm == .idle) = true :=
  ⟨sending_inv _ _ (.inr rfl) rfl, by decide, by decide⟩
theorem witness_ResultRegisterWriters_reading :
    (received 0x03 dustReply).running = some .queryDust ∧
    nextHas (agentStep .engine (received 0x03 dustReply))
      (fun t => t.regs.result == 0x00 && t.regs.pm1_0L == dustReply[7] &&
        t.regs.resp == dustReply) = true := by decide
theorem witness_ResultRegisterWriters_zeros :
    nextHas (agentStep .engine { running .rxWait 0x03 with
      eng.t := 10, eng.w := 11, regs.pm10L := 20, regs.resp := dustReply })
      (fun t => t.regs.result == 0x02 && t.regs.pm10L == 0 && t.regs.resp[8] == 0) = true := by decide
theorem witness_TelemetryBufferWriters : ∃ t, agentStep .engine (running .extract 0x08) = .next t :=
  ⟨_, rfl⟩
theorem witness_ProgramLinesRunAsSteps_waitIdle :
    bit ((running .rxWait 0x02).memRead 0x01) 0 = true ∧ bit (State.reset.memRead 0x01) 0 = false := by
  decide
theorem witness_ProgramLinesRunAsSteps_stimuli :
    State.reset.rx.length + [(0x42 : Byte)].length ≤ Config.RX_DEPTH ∧
    (running .settle 0x04).eng.fsm = .settle ∧ (running .settle 0x04).eng.w + 65536 ≤ 65536 :=
  ⟨Nat.le_add_left 1 _ |>.trans (Nat.add_le_add_left (by decide) _), rfl, by decide⟩

/-- A next state in which one bit of `STATUS` has gone from one value to the other. -/
def turns (b : Nat) (v : Bool) (a : AgentStep) (s : State) : Bool :=
  nextHas (agentStep a s) (fun t => bit s.regs.status b == !v && bit t.regs.status b == v)

/-- Each bit of `STATUS` is set by a step of R22's "set by" column. -/
theorem witness_StatusAndOperandWriters_sets :
    turns 0 true (.hostWrite 0x00 0x08) State.reset = true ∧
    turns 1 true .engine (running .extract 0x08) = true ∧
    turns 2 true (.hostWrite 0x00 0x09) State.reset = true ∧
    turns 3 true (.hostWrite 0x00 0x09) (running .rxWait 0x02) = true ∧
    turns 4 true .engine { running .syncEval 0x07 with eng.fbuf := zeroFrame, eng.sum := 0x0156 } = true ∧
    turns 5 true .engine { running .syncBody 0x07 with eng.bidx := 4 } = true := by decide

/-- Each bit of `STATUS` is cleared by a step of R22's "cleared by" column, or by a reset. -/
theorem witness_StatusAndOperandWriters_clears :
    turns 0 false .engine (running .extract 0x08) = true ∧
    turns 1 false (.hostWrite 0x00 0x02) { State.reset with regs.status := 0x02 } = true ∧
    turns 1 false (.hostWrite 0x01 0x02) { State.reset with regs.status := 0x02 } = true ∧
    turns 2 false (.hostWrite 0x01 0x04) { State.reset with regs.status := 0x04 } = true ∧
    turns 3 false (.hostWrite 0x01 0x08) { State.reset with regs.status := 0x08 } = true ∧
    turns 4 false .engine { running .extract 0x08 with regs.status := 0x11 } = true ∧
    turns 5 false (.hostWrite 0x01 0x20) { State.reset with regs.status := 0x20 } = true ∧
    turns 6 false .reset { State.reset with regs.status := 0xC0 } = true ∧
    turns 7 false .reset { State.reset with regs.status := 0xC0 } = true := by decide

/-- The operand registers at the ends of their range change at a host write. -/
theorem witness_StatusAndOperandWriters_operands :
    nextHas (agentStep (.hostWrite 0x03 0x12) { State.reset with regs.timeoutH := 0x11 })
      (fun t => t.memRead 0x03 != 0x11) = true ∧
    nextHas (agentStep (.hostWrite 0x0B 0x01) State.reset)
      (fun t => t.memRead 0x0B != State.reset.memRead 0x0B) = true := by decide

end Sys2Proof.Tests
end

section
/-! The obligations of spec/00_scope.md: whose step a step of the machine is (R2, R55, D43). -/

namespace Sys2Proof.Proofs

open Sys2Proof.Machine

/-- Settles O6: a step at the head of the schedule is that turn's step (`step_cons`), for either kind
of turn. -/
theorem stepRunsScheduledAgent : Obligations.StepRunsScheduledAgent := by
  intro s rest
  constructor
  · intro a h
    exact step_cons s (.agent a) rest h
  · intro h
    exact step_cons s .program rest h

/-- Settles O7: one clause for each agent that may move when nothing is scheduled, in the order of
`eagerTurn`. -/
theorem stepWithoutScheduleIsEager : Obligations.StepWithoutScheduleIsEager := by
  intro s h
  refine ⟨?engine, ?drain, ?program, ?still⟩
  case engine => exact step_engine s h
  case drain => exact step_drain s h
  case program =>
    intro hr ht _
    exact step_quiet s h hr ht
  case still => exact step_still s h

end Sys2Proof.Proofs
end

section
/-! SUPPORT for the obligations of spec/10_state.md: everything a host write and an issue can do, said once
(spec/20_memory.md R41; spec/40_common.md R80, R81). -/

namespace Sys2Proof.Proofs

open Sys2Proof.Machine

/-! ### The opcode byte -/

theorem decode_encode (i : Instr) : decode (encode i) = .ok i := by cases i <;> rfl

/-- The bytes that name no operation are 0x00 and 0x09..0xFF (R62). -/
theorem undefined_of_decode_error {v : Byte} {e : DecodeError} (h : decode v = .error e) :
    v.toNat = 0 ∨ 9 ≤ v.toNat := by
  have range : ∀ v : Byte, ¬ (v.toNat = 0 ∨ 9 ≤ v.toNat) → (decode v).isOk = true := by decide
  by_contra hv
  have := range v hv
  rw [h] at this
  cases this

/-! ### An operation's own part of the issue -/

section
variable (g : Regs) (i : Instr) (s : State)

@[simp] theorem startOf_regs : (startOf g i s).regs = s.regs := by cases i <;> rfl
@[simp] theorem startOf_op : (startOf g i s).eng.op = s.eng.op := by cases i <;> rfl
@[simp] theorem startOf_tbuf : (startOf g i s).eng.tbuf = s.eng.tbuf := by cases i <;> rfl
@[simp] theorem startOf_tbufValid : (startOf g i s).eng.tbufValid = s.eng.tbufValid := by
  cases i <;> rfl
@[simp] theorem startOf_rx : (startOf g i s).rx = s.rx := by cases i <;> rfl
@[simp] theorem startOf_tx : (startOf g i s).tx = s.tx := by cases i <;> rfl

/-- An operation starts in a state it visits (R86). -/
theorem visits_startOf : visits i (startOf g i s).eng.fsm = true := by cases i <;> rfl

end

/-! ### A host write -/

/-- Everything a host write can do: issue the operation its byte names, be refused as an undefined opcode,
or write a register other than `OP` (R41). -/
theorem hostWrite_cases {a v : Byte} {s t : State} (h : hostWrite a v s = .next t) :
    (a = 0x00 ∧ ∃ i, decode v = .ok i ∧ exec i s = .next t) ∨
    (a = 0x00 ∧ (v.toNat = 0 ∨ 9 ≤ v.toNat) ∧ t = s.refuseUndefined) ∨
    (a ≠ 0x00 ∧ t = s.memWrite a v) := by
  unfold hostWrite at h
  split at h
  next ha =>
    unfold writeOp at h
    split at h
    next i hd => exact .inl ⟨ha, i, hd, h⟩
    next e hd => cases h; exact .inr (.inl ⟨ha, undefined_of_decode_error hd, rfl⟩)
  next ha => cases h; exact .inr (.inr ⟨ha, rfl⟩)

theorem hostWrite_op {v : Byte} {i : Instr} (s : State) (h : decode v = .ok i) :
    hostWrite 0x00 v s = exec i s := by
  show writeOp v s = exec i s
  unfold writeOp
  rw [h]

/-- The refusal of an undefined opcode sets one of two flags (R62, R81). -/
theorem refuseUndefined_cases (s : State) :
    (s.busy = true ∧ s.refuseUndefined = s.setFlag OP_WHILE_BUSY) ∨
    (s.busy = false ∧ s.refuseUndefined = s.setFlag ILLEGAL_OP) := by
  cases h : s.busy with
  | true => exact .inl ⟨rfl, refuseUndefined_busy s h⟩
  | false => exact .inr ⟨rfl, refuseUndefined_idle s h⟩

/-- A write of a register changes no bit of `STATUS` but the W1C bits (R22). -/
theorem write_status_bit (g : Regs) (v : Byte) (r : RegName) (j : Nat) (hj : j < 8)
    (h : j ∉ w1cBits) : bit (g.write v r).status j = bit g.status j := by
  cases r
  case status =>
    show bit (statusAfterWrite g.status v) j = bit g.status j
    simp [bit_statusAfterWrite _ _ _ hj, h]
  all_goals rfl

end Sys2Proof.Proofs
end

section
/-! The invariant of the machine (spec/10_state.md R22, R32; spec/40_common.md R86, R95; spec/42_synchronizer.md R129)
is kept by every step: first the changes that keep it whole, then the agents one by one. -/

namespace Sys2Proof.Proofs

open Sys2Proof.Machine

/-! ### The registers -/

/-- A change of the W1C bits of `STATUS` alone keeps the invariant: it speaks of none of them (R22). -/
theorem machineInv_of_w1cBits {s t : State} (hi : MachineInv s)
    (hb : ∀ j < 8, j ∉ w1cBits → bit t.regs.status j = bit s.regs.status j)
    (hr : t.regs.result = s.regs.result) (he : t.eng = s.eng) (hx : t.rx = s.rx) (hy : t.tx = s.tx) :
    MachineInv t := by
  obtain ⟨⟨h6, h7⟩, hbusy, htag, hkind⟩ := hi.regs
  refine hi.of_regs ⟨⟨?_, ?_⟩, ?_, ?_, ?_⟩ he hx hy
  · rw [hb 6 (by decide) (by decide), h6]
  · rw [hb 7 (by decide) (by decide), h7]
  · unfold State.busy at *
    rw [hb BUSY (by decide) (by decide), he]
    exact hbusy
  · rw [hb TBUF_VALID (by decide) (by decide), he, htag]
  · rw [hr]
    exact hkind

theorem setFlag_keepsInv {s : State} {b : Nat} (hi : MachineInv s) (hb : b ∈ w1cBits) :
    MachineInv (s.setFlag b) := by
  refine machineInv_of_w1cBits hi (fun j hj h => ?_) rfl rfl rfl rfl
  have hne : j ≠ b := fun e => h (e ▸ hb)
  simp [hj, hne]

theorem memWrite_keepsInv {s : State} (hi : MachineInv s) (a v : Byte) :
    MachineInv (s.memWrite a v) := by
  unfold State.memWrite
  split
  next r _ =>
    exact machineInv_of_w1cBits hi (fun j hj h => write_status_bit _ v r j hj h)
      (write_results s.regs v r).1 rfl rfl rfl
  next => exact hi

theorem rxPopNB_keepsInv {s : State} (hi : MachineInv s) : MachineInv s.rxPopNB.2 := by
  cases hx : s.rx with
  | nil =>
    rw [rxPopNB_nil s hx]
    exact (setFlag_keepsInv hi (b := RX_UNDERFLOW) (by decide)).congr rfl rfl hi.rxDepth hi.txDepth
  | cons b rest =>
    rw [rxPopNB_cons s b rest hx]
    have hlen := hi.rxDepth
    simp only [State.rxCount, hx, List.length_cons] at hlen
    exact hi.congr rfl rfl (by simp only [State.rxCount]; omega) hi.txDepth

/-! ### Issue -/

theorem buildCmd_fixed (c p0 p1 p2 p3 p4 : Byte) :
    (buildCmd c p0 p1 p2 p3 p4)[0] = Config.START ∧
    (buildCmd c p0 p1 p2 p3 p4)[1] = Config.DEVID := by simp [buildCmd]

theorem startOf_counterInv {s : State} (hc : CounterInv s) (g : Regs) (i : Instr) :
    CounterInv (startOf g i s) := by
  cases i
  case readResponse =>
    exact { hc with rxidx := by simp [startOf], w := by simp [startOf], wait := by simp [startOf]
                    push := nofun, body := nofun, search := nofun }
  all_goals exact { hc with push := nofun, wait := nofun, body := nofun, search := nofun }

theorem startOf_txbufInv {s : State} (hx : TxbufInv s) (g : Regs) (i : Instr) :
    TxbufInv (startOf g i s) := by
  cases i
  case readResponse | syncFrame | extractFrame => exact ⟨hx.checksum, nofun⟩
  all_goals exact ⟨cmdChecksum_buildCmd .., fun _ => buildCmd_fixed ..⟩

theorem startOf_candidateInv (s : State) (g : Regs) (i : Instr) : CandidateInv (startOf g i s) := by
  cases i <;> exact ⟨nofun, nofun, nofun⟩

/-- The issue of an operation sets `BUSY` and puts the Engine in a state the operation visits (R80). -/
theorem issue_keepsInv {s : State} (hi : MachineInv s) (i : Instr) :
    MachineInv (startOf s.regs i (s.latchIssue i)) := by
  obtain ⟨⟨h6, h7⟩, -, htag, hkind⟩ := hi.regs
  have hv : visits i (startOf s.regs i (s.latchIssue i)).eng.fsm = true := visits_startOf ..
  have hne : (startOf s.regs i (s.latchIssue i)).eng.fsm ≠ .idle := by
    intro e
    rw [e, visits_idle] at hv
    cases hv
  have hx : TxbufInv (s.latchIssue i) := ⟨hi.txbuf.checksum, hi.txbuf.fixed⟩
  have hc : CounterInv (s.latchIssue i) := { hi.counters with }
  refine ⟨⟨?_, ?_, ?_, ?_⟩, startOf_counterInv hc _ i, startOf_candidateInv _ _ i, ?_,
    startOf_txbufInv hx _ i, fun _ => ⟨i, ?_, hv⟩, ?_, ?_⟩
  · simp [h6, h7]
  · simp [State.busy, hne]
  · simpa [bit_statusAtIssue _ TBUF_VALID (by decide)] using htag
  · simpa using hkind
  · simpa [TbufInv] using hi.tbuf
  · exact running_of_op _ i (by simp)
  · simpa [State.rxCount] using hi.rxDepth
  · simpa [State.txCount] using hi.txDepth

theorem exec_keepsInv {i : Instr} {s t : State} (hi : MachineInv s) (h : exec i s = .next t) :
    MachineInv t := by
  rcases exec_cases h with ⟨-, rfl⟩ | ⟨-, rfl⟩
  · exact issue_keepsInv hi i
  · exact setFlag_keepsInv hi (by decide)

theorem hostWrite_keepsInv {a v : Byte} {s t : State} (hi : MachineInv s)
    (h : hostWrite a v s = .next t) : MachineInv t := by
  rcases hostWrite_cases h with ⟨-, i, -, hx⟩ | ⟨-, -, rfl⟩ | ⟨-, rfl⟩
  · exact exec_keepsInv hi hx
  · rcases refuseUndefined_cases s with ⟨-, e⟩ | ⟨-, e⟩ <;> rw [e]
    · exact setFlag_keepsInv hi (by decide)
    · exact setFlag_keepsInv hi (by decide)
  · exact memWrite_keepsInv hi a v

/-! ### Completion -/

/-- The ranges of the counters hold in `IDLE` too, where no buffer is indexed. -/
theorem counterInv_goto_idle {s : State} (hc : CounterInv s) : CounterInv (s.goto .idle) :=
  { hc with push := nofun, wait := nofun, body := nofun, search := nofun }

/-- A completion keeps the invariant when what the operation has done before it keeps the parts that an
idle block has (R84). -/
theorem complete_keepsInv {s u : State} (k : ResultKind) (hi : MachineInv s)
    (hres : bit u.regs.status 6 = bit s.regs.status 6 ∧ bit u.regs.status 7 = bit s.regs.status 7)
    (htag : bit u.regs.status TBUF_VALID = u.eng.tbufValid) (htb : TbufInv u)
    (hc : CounterInv (u.goto .idle)) (hb : u.eng.txbuf = s.eng.txbuf) (hx : u.rx = s.rx)
    (hy : u.tx = s.tx) : MachineInv (u.complete k) := by
  obtain ⟨h6, h7⟩ := hi.regs.reserved
  refine ⟨⟨?_, ?_, ?_, ⟨k, rfl⟩⟩, { hc with }, ⟨nofun, nofun, nofun⟩, htb, ⟨?_, nofun⟩,
    fun h => absurd rfl h, ?_, ?_⟩
  · simp [hres, h6, h7]
  · simp [State.busy]
  · simpa [bit_statusAtCompletion _ TBUF_VALID (by decide)] using htag
  · show cmdChecksum u.eng.txbuf = u.eng.txbuf[8]
    rw [hb]
    exact hi.txbuf.checksum
  · simpa [State.rxCount, hx] using hi.rxDepth
  · simpa [State.txCount, hy] using hi.txDepth

/-- A completion over a state with the same `STATUS` and the same telemetry buffer keeps the invariant when
the counters stay in range. -/
theorem complete_keepsInv_of_same {s u : State} (k : ResultKind) (hi : MachineInv s)
    (hst : u.regs.status = s.regs.status) (htb : u.eng.tbuf = s.eng.tbuf)
    (htv : u.eng.tbufValid = s.eng.tbufValid) (hc : CounterInv (u.goto .idle))
    (hb : u.eng.txbuf = s.eng.txbuf) (hx : u.rx = s.rx) (hy : u.tx = s.tx) :
    MachineInv (u.complete k) :=
  complete_keepsInv k hi (by simp [hst]) (by rw [hst, htv, hi.regs.tag])
    (by unfold TbufInv; rw [htb, htv]; exact hi.tbuf) hc hb hx hy

/-- The completion of a response-reading operation (R92). -/
theorem doneOf_keepsInv {k : ResultKind} {s t : State} {i : Instr} (hi : MachineInv s)
    (h : doneOf k (recordResponse k s) i = some t) : MachineInv t := by
  obtain ⟨k', g, rfl, hst, -⟩ := doneOf_complete h
  exact complete_keepsInv_of_same k' hi hst rfl rfl (counterInv_goto_idle { hi.counters with })
    rfl rfl rfl

/-! ### Operations that send a frame or read a response -/

/-- The reader starts: the wait counter and the response index are 0 (R83). -/
theorem startReceive_keepsInv {s : State} (hi : MachineInv s) (hs : s.eng.fsm ≠ .idle)
    (hv : ∀ i, s.running = some i → visits i s.eng.fsm = true → visits i .rxWait = true) :
    MachineInv (startReceive s) :=
  hi.of_running rfl rfl
    { hi.counters with
      rxidx := Nat.zero_le _, w := Nat.zero_le _, wait := fun _ => Nat.zero_lt_succ _
      push := nofun, body := nofun, search := nofun }
    ⟨nofun, nofun, nofun⟩ rfl rfl rfl nofun hs nofun hv hi.rxDepth hi.txDepth

/-- An operation that visits one of the three sending states goes through the later two (R86). -/
theorem visits_transmits {i : Instr} {f : Fsm} (hv : visits i f = true) (hf : f.transmits = true) :
    visits i .txPush = true ∧ visits i .txFlush = true := by
  simp only [Fsm.transmits, decide_eq_true_eq] at hf
  rcases hf with rfl | rfl | rfl <;> cases i <;> first | exact ⟨rfl, rfl⟩ | cases hv

theorem rxClearStep_keepsInv {s : State} (hi : MachineInv s) (h : s.eng.fsm = .rxClear) :
    MachineInv { s.rxClear with eng.txidx := 0, eng.fsm := .txPush } :=
  have hsend : s.eng.fsm.transmits = true := by rw [h]; rfl
  hi.of_running rfl rfl
    { hi.counters with
      txidx := Nat.zero_le _, push := fun _ => Nat.zero_lt_succ _
      wait := nofun, body := nofun, search := nofun }
    ⟨nofun, nofun, nofun⟩ rfl rfl rfl (fun _ => hsend) (by simp [h]) nofun
    (fun _ _ hv => (visits_transmits hv hsend).1) (Nat.zero_le _) hi.txDepth

/-- A pushed byte leaves the index inside the frame, or the frame is all in the queue (R83, R90). -/
theorem txPushStep_keepsInv {s : State} (hi : MachineInv s) (h : s.eng.fsm = .txPush)
    (room : s.txCount < Config.TX_DEPTH) (hx : s.eng.txidx < 9) (b : Byte) :
    MachineInv { s.txPush b with
      eng.txidx := s.eng.txidx + 1
      eng.fsm := if s.eng.txidx + 1 = 9 then .txFlush else .txPush } := by
  have hsend : s.eng.fsm.transmits = true := by rw [h]; rfl
  have depth : (s.txPush b).txCount ≤ Config.TX_DEPTH := by
    simp only [State.txCount, txPush_tx, List.length_append, List.length_singleton] at *
    omega
  split
  next =>
    exact hi.of_running rfl rfl
      { hi.counters with
        txidx := hx, push := nofun, wait := nofun, body := nofun, search := nofun }
      ⟨nofun, nofun, nofun⟩ rfl rfl rfl (fun _ => hsend) (by simp [h]) nofun
      (fun _ _ hv => (visits_transmits hv hsend).2) hi.rxDepth depth
  next hne =>
    exact hi.of_running rfl rfl
      { hi.counters with
        txidx := hx, push := fun _ => Nat.lt_of_le_of_ne hx hne
        wait := nofun, body := nofun, search := nofun }
      ⟨nofun, nofun, nofun⟩ rfl rfl rfl (fun _ => hsend) (by simp [h]) nofun
      (fun _ _ hv => (visits_transmits hv hsend).1) hi.rxDepth depth

theorem sleepFlushed_keepsInv {s : State} (hi : MachineInv s) (h : s.eng.fsm = .txFlush)
    (hop : s.running = some .enterSleep ∨ s.running = some .exitSleep) :
    MachineInv { s with eng.w := 0, eng.fsm := .settle } := by
  refine hi.of_running rfl rfl
    { hi.counters with w := Nat.zero_le _, push := nofun, wait := nofun, body := nofun, search := nofun }
    ⟨nofun, nofun, nofun⟩ rfl rfl rfl nofun (by simp [h]) nofun (fun i hr _ => ?_)
    hi.rxDepth hi.txDepth
  rcases hop with e | e <;> cases hr.symm.trans e <;> rfl

/-- Only an operation that reads a response has a settle delay (R83). -/
theorem visits_rxWait_of_settleTicks {s : State} {n : Nat} {i : Instr} (hn : settleTicks s = some n)
    (hr : s.running = some i) : visits i .rxWait = true := by
  unfold settleTicks at hn
  rw [hr] at hn
  cases i <;> first | rfl | cases hn

/-- A received byte leaves the index inside the response, or the response is whole (R92). -/
theorem receiveByte_keepsInv {s : State} (hi : MachineInv s) (b : Byte) (rest : List Byte)
    (h : s.eng.fsm = .rxWait) (hr : s.rx = b :: rest) (hx : s.eng.rxidx < 9) :
    MachineInv (receiveByte b rest s hx) := by
  have depth : rest.length ≤ Config.RX_DEPTH := by
    have := hi.rxDepth
    simp only [State.rxCount, hr, List.length_cons] at this
    omega
  have hv (i : Instr) (hv : visits i s.eng.fsm = true) :
      visits i .rxWait = true ∧ visits i .respEval = true := by
    rw [h] at hv
    cases i <;> first | exact ⟨rfl, rfl⟩ | cases hv
  unfold receiveByte
  split
  next =>
    exact hi.of_running rfl rfl
      { hi.counters with
        rxidx := hx, w := Nat.zero_le _, push := nofun, wait := nofun, body := nofun, search := nofun }
      ⟨nofun, nofun, nofun⟩ rfl rfl rfl nofun (by simp [h]) nofun (fun i _ hf => (hv i hf).2)
      depth hi.txDepth
  next hne =>
    exact hi.of_running rfl rfl
      { hi.counters with
        rxidx := hx, w := Nat.zero_le _, wait := fun _ => Nat.lt_of_le_of_ne hx hne
        push := nofun, body := nofun, search := nofun }
      ⟨nofun, nofun, nofun⟩ rfl rfl rfl nofun (by simp [h]) nofun (fun i _ hf => (hv i hf).1)
      depth hi.txDepth

/-! ### The synchronizer -/

theorem eq_syncFrame_of_visits {i : Instr} {f : Fsm} (hv : visits i f = true)
    (hf : f = .syncStart ∨ f.searches = true) : i = .syncFrame := by
  simp only [Fsm.searches, decide_eq_true_eq] at hf
  rcases hf with rfl | rfl | rfl | rfl <;> cases i <;> first | rfl | cases hv

theorem visits_syncFrame {f : Fsm} (hf : f.searches = true) :
    visits .syncFrame f = true ∧ f.transmits = false ∧ f ≠ .idle := by
  simp only [Fsm.searches, decide_eq_true_eq] at hf
  rcases hf with rfl | rfl | rfl <;> exact ⟨rfl, rfl, nofun⟩

/-- A step of `SYNC_FRAME` that goes on and touches no register has to keep the counters and the candidate
frame: it leaves the transmit and telemetry buffers alone. -/
theorem search_keepsInv {s t : State} (hi : MachineInv s)
    (hs : s.eng.fsm = .syncStart ∨ s.eng.fsm.searches = true) (ht : t.eng.fsm.searches = true)
    (hr : t.regs = s.regs)
    (he : t.eng = { s.eng with
      fsm := t.eng.fsm, avail := t.eng.avail, skip := t.eng.skip, fail := t.eng.fail,
      hidx := t.eng.hidx, bidx := t.eng.bidx, sum := t.eng.sum, fbuf := t.eng.fbuf })
    (hc : CounterInv t) (hd : CandidateInv t) (hx : t.rx = s.rx) (hy : t.tx = s.tx) :
    MachineInv t := by
  obtain ⟨hv, hsend, hne⟩ := visits_syncFrame ht
  refine hi.of_running hr (by rw [he]) hc hd (by rw [he]) (by rw [he]) (by rw [he])
    (by simp [hsend]) ?_ hne ?_ ?_ ?_
  · intro e
    rw [e] at hs
    simp [Fsm.searches] at hs
  · intro i _ hvs
    rw [eq_syncFrame_of_visits hvs hs]
    exact hv
  · simpa [State.rxCount, hx] using hi.rxDepth
  · simpa [State.txCount, hy] using hi.txDepth

theorem headerUpTo_zero (f : Frame32) : headerUpTo f 0 := fun _ h => absurd h (Nat.not_lt_zero _)

/-- A byte that matches the next header byte continues the header. -/
theorem headerUpTo_set_succ {f : Frame32} {k : Fin 4} {b : Byte} (h : headerUpTo f k.val)
    (hb : b = Config.HDR[k]) : headerUpTo (f.set k.val b (by omega)) (k.val + 1) := by
  intro i hi
  rcases Nat.lt_succ_iff_lt_or_eq.mp hi with hlt | heq
  · exact headerUpTo_set f k.val k.val (by omega) b h (le_refl _) i hlt
  · obtain rfl : i = k := Fin.ext heq
    simp [hb]

/-- The sum of a candidate's first bytes stays in R95's range for `s.sum`. -/
theorem prefixSum_toNat_le_max (f : Frame32) (n : Nat) (h : n ≤ 32) :
    (prefixSum f n).toNat ≤ 8160 := by
  have := prefixSum_toNat_le f n h
  omega

theorem syncStart_keepsInv {s : State} (hi : MachineInv s) (h : s.eng.fsm = .syncStart)
    (hn : 32 ≤ s.rxCount) :
    MachineInv { s with
      eng.avail := s.rxCount, eng.skip := 0, eng.fail := 0, eng.hidx := 0, eng.fsm := .syncHdr } :=
  search_keepsInv hi (.inl h) rfl rfl rfl
    { hi.counters with
      avail := hi.rxDepth, skip := Nat.zero_le _, fail := Nat.zero_le _, hidx := Nat.zero_le _
      push := nofun, wait := nofun, body := nofun
      search := fun _ => ⟨hn, Nat.zero_le _, Nat.zero_le _⟩ }
    ⟨fun _ => ⟨headerUpTo_zero _, nofun⟩, nofun, nofun⟩ rfl rfl

/-- A failed attempt resumes the header search within the budget, or completes beyond it (R122). -/
theorem failedAttempt_keepsInv {s : State} (hi : MachineInv s) (hf : s.eng.fsm.searches = true) :
    MachineInv (failedAttempt s) := by
  obtain ⟨havail, hskip, hfail⟩ := hi.counters.search hf
  rcases failedAttempt_cases s with ⟨hlt, e⟩ | ⟨-, e⟩ <;> rw [e]
  · exact search_keepsInv hi (.inr hf) rfl rfl rfl
      { hi.counters with
        hidx := Nat.zero_le _, fail := Nat.le_succ_of_le hlt
        push := nofun, wait := nofun, body := nofun, search := fun _ => ⟨havail, hskip, hlt⟩ }
      ⟨fun _ => ⟨headerUpTo_zero _, nofun⟩, nofun, nofun⟩ rfl rfl
  · exact complete_keepsInv_of_same _ hi rfl rfl rfl
      { counterInv_goto_idle hi.counters with
        hidx := Nat.zero_le _, fail := Nat.succ_le_succ hfail, search := nofun } rfl rfl rfl

/-- A byte skip goes on within the call's allowance, or completes beyond it (R121). -/
theorem byteSkip_keepsInv {s : State} (hi : MachineInv s) (hf : s.eng.fsm = .syncHdr) :
    MachineInv (byteSkip s) := by
  have hsearch : s.eng.fsm.searches = true := by rw [hf]; rfl
  obtain ⟨havail, hskip, hfail⟩ := hi.counters.search hsearch
  have hle := hi.counters.avail
  have hroom : s.eng.skip + 1 ≤ Config.RX_DEPTH := by omega
  rcases byteSkip_cases s with ⟨hlt, e⟩ | ⟨-, e⟩ <;> rw [e]
  · exact search_keepsInv hi (.inr hsearch) hsearch rfl rfl
      { hi.counters with skip := hroom, search := fun _ => ⟨havail, hlt, hfail⟩ }
      { hi.candidate with } rfl rfl
  · exact complete_keepsInv_of_same _ hi rfl rfl rfl
      { counterInv_goto_idle hi.counters with skip := hroom, search := nofun } rfl rfl rfl

/-- A header byte at index 0: a match starts the candidate and its sum (R121). -/
theorem headerStart_keepsInv {s : State} (hi : MachineInv s) (hf : s.eng.fsm = .syncHdr)
    (b : Byte) : MachineInv (headerStart b s) := by
  unfold headerStart
  split
  next hb =>
    have hsearch : s.eng.fsm.searches = true := by rw [hf]; rfl
    have hsum : zext16 b = prefixSum (s.eng.fbuf.set 0 b) 1 := by
      rw [prefixSum_set_succ]
      simp [prefixSum]
    exact search_keepsInv hi (.inr hsearch) hsearch rfl rfl
      { hi.counters with
        hidx := Nat.succ_le_succ (Nat.zero_le _)
        sum := by rw [hsum]; exact prefixSum_toNat_le_max _ _ (by decide) }
      { hdr := fun _ => ⟨headerUpTo_set_succ (k := 0) (headerUpTo_zero _) hb, fun _ => hsum⟩
        body := fun e => absurd (hf.symm.trans e) (by decide)
        eval := fun e => absurd (hf.symm.trans e) (by decide) } rfl rfl
  next => exact byteSkip_keepsInv hi hf

/-- A later header byte: a match extends the candidate and its sum, a mismatch is a failed attempt (R122). -/
theorem headerNext_keepsInv {s : State} (hi : MachineInv s) (hf : s.eng.fsm = .syncHdr) (k : Fin 4)
    (hk : k.val = s.eng.hidx) (h0 : 0 < k.val) (b : Byte) : MachineInv (headerNext k b s) := by
  have hsearch : s.eng.fsm.searches = true := by rw [hf]; rfl
  obtain ⟨hup, hsum⟩ := hi.candidate.hdr hf
  rw [← hk] at hup hsum
  have hsum' : s.eng.sum + zext16 b = prefixSum (s.eng.fbuf.set k.val b) (k.val + 1) := by
    rw [prefixSum_set_succ, hsum h0]
  have hle : (s.eng.sum + zext16 b).toNat ≤ 8160 := by
    rw [hsum']
    exact prefixSum_toNat_le_max _ _ (by omega)
  unfold headerNext
  split
  next => exact failedAttempt_keepsInv hi hsearch
  next hb =>
    have hup' := headerUpTo_set_succ hup (not_not.mp hb)
    split
    next h3 =>
      have h4 : k.val + 1 = 4 := by omega
      rw [h4] at hup' hsum'
      exact search_keepsInv hi (.inr hsearch) rfl rfl rfl
        { hi.counters with
          sum := hle, bidx := Nat.le_of_ble_eq_true rfl
          body := fun _ => ⟨le_refl 4, Nat.le_of_ble_eq_true rfl⟩, push := nofun, wait := nofun
          search := fun _ => hi.counters.search hsearch }
        ⟨nofun, fun _ => ⟨hup', hsum'⟩, nofun⟩ rfl rfl
    next h3 =>
      exact search_keepsInv hi (.inr hsearch) hsearch rfl rfl
        { hi.counters with hidx := by show k.val + 1 ≤ 3; omega, sum := hle }
        { hdr := fun _ => ⟨hup', fun _ => hsum'⟩
          body := fun e => absurd (hf.symm.trans e) (by decide)
          eval := fun e => absurd (hf.symm.trans e) (by decide) } rfl rfl

/-- A body byte extends the candidate and its sum; the thirty-second completes it (R123). -/
theorem bodyByte_keepsInv {s : State} (hi : MachineInv s) (hf : s.eng.fsm = .syncBody)
    (h : s.eng.bidx < 32) (b : Byte) : MachineInv (bodyByte b s h) := by
  have hsearch : s.eng.fsm.searches = true := by rw [hf]; rfl
  obtain ⟨h4, -⟩ := hi.counters.body hf
  obtain ⟨hup, hsum⟩ := hi.candidate.body hf
  have hup' := headerUpTo_set s.eng.fbuf s.eng.bidx 4 h b hup h4
  have hsum' : s.eng.sum + zext16 b = prefixSum (s.eng.fbuf.set s.eng.bidx b) (s.eng.bidx + 1) := by
    rw [prefixSum_set_succ, hsum]
  have hle : (s.eng.sum + zext16 b).toNat ≤ 8160 := by
    rw [hsum']
    exact prefixSum_toNat_le_max _ _ h
  unfold bodyByte
  split
  next h32 =>
    rw [show s.eng.bidx + 1 = 32 from h32] at hsum'
    exact search_keepsInv hi (.inr hsearch) rfl rfl rfl
      { hi.counters with
        bidx := h, sum := hle, push := nofun, wait := nofun, body := nofun
        search := fun _ => hi.counters.search hsearch }
      ⟨nofun, nofun, fun _ => ⟨hup', hsum'⟩⟩ rfl rfl
  next hne =>
    exact search_keepsInv hi (.inr hsearch) rfl rfl rfl
      { hi.counters with
        bidx := h, sum := hle, push := nofun, wait := nofun
        body := fun _ => ⟨Nat.le_succ_of_le h4, Nat.lt_of_le_of_ne h hne⟩
        search := fun _ => hi.counters.search hsearch }
      ⟨nofun, fun _ => ⟨hup', hsum'⟩, nofun⟩ rfl rfl

/-- The candidate that passes the synchronizer's comparison is a valid Telemetry Frame (R69, R124). -/
theorem telemetryValid_of_runningChecksumOk {f : Frame32} (hup : headerUpTo f 4)
    (hc : runningChecksumOk (prefixSum f 32) f = true) : telemetryValid f = true := by
  rw [runningChecksumOk_iff, runningChecksum_prefixSum] at hc
  have h0 := hup 0 (by decide)
  have h1 := hup 1 (by decide)
  have h2 := hup 2 (by decide)
  have h3 := hup 3 (by decide)
  simp_all [telemetryValid, telemetryHeaderOk, telemetryChecksumOk]

theorem acceptFrame_keepsInv {s : State} (hi : MachineInv s) (hf : s.eng.fsm = .syncEval)
    (hc : runningChecksumOk s.eng.sum s.eng.fbuf = true) :
    MachineInv ((acceptFrame s).complete .checkOk) := by
  obtain ⟨hup, hsum⟩ := hi.candidate.eval hf
  rw [hsum] at hc
  exact complete_keepsInv _ hi (by simp) (by simp [bit_setBit _ _ TBUF_VALID (by decide)])
    (.inr ⟨rfl, telemetryValid_of_runningChecksumOk hup hc⟩)
    { counterInv_goto_idle hi.counters with search := nofun } rfl rfl rfl

theorem extracted_keepsInv {s : State} (hi : MachineInv s) :
    MachineInv (State.complete
      { s.clearFlag TBUF_VALID with
        regs.frameOut := s.eng.tbuf
        eng.tbuf := Vector.replicate 32 0x00
        eng.tbufValid := false } .checkOk) :=
  complete_keepsInv _ hi (by simp) (by simp [bit_clearBit _ _ TBUF_VALID (by decide)])
    (.inl ⟨rfl, rfl⟩)
    { counterInv_goto_idle hi.counters with search := nofun } rfl rfl rfl

/-! ### The agents -/

/-- Every move of the Engine keeps the invariant. -/
theorem engineMove_keepsInv {s t : State} (hi : MachineInv s) (m : EngineMove s t) : MachineInv t := by
  cases m with
  | hold => exact hi
  | cleared h => exact rxClearStep_keepsInv hi h
  | pushed h room hx => exact txPushStep_keepsInv hi h room hx _
  | sent =>
    exact complete_keepsInv_of_same _ hi rfl rfl rfl (counterInv_goto_idle hi.counters) rfl rfl rfl
  | queryFlushed h _ hop =>
    refine startReceive_keepsInv hi (by simp [h]) (fun i hr _ => ?_)
    cases hr.symm.trans hop
    rfl
  | sleepFlushed h _ hop => exact sleepFlushed_keepsInv hi h hop
  | settled n h hn =>
    exact startReceive_keepsInv hi (by simp [h]) (fun i hr _ => visits_rxWait_of_settleTicks hn hr)
  | received b rest h hr hx => exact receiveByte_keepsInv hi b rest h hr hx
  | timedOut t i _ _ _ _ hd => exact doneOf_keepsInv hi hd
  | evaluated t i k _ _ _ hd => exact doneOf_keepsInv hi hd
  | tooFew =>
    exact complete_keepsInv_of_same _ hi rfl rfl rfl
      { counterInv_goto_idle hi.counters with avail := hi.rxDepth, search := nofun } rfl rfl rfl
  | searching h hn => exact syncStart_keepsInv hi h hn
  | headerByte h => exact headerStart_keepsInv (rxPopNB_keepsInv hi) (by simpa using h) _
  | headerLater k h hk h0 =>
    exact headerNext_keepsInv (rxPopNB_keepsInv hi) (by simpa using h) k (by simpa using hk) h0 _
  | bodyRead h hx => exact bodyByte_keepsInv (rxPopNB_keepsInv hi) (by simpa using h) hx _
  | accepted h hc => exact acceptFrame_keepsInv hi h hc
  | rejected h => exact failedAttempt_keepsInv hi (by rw [h]; rfl)
  | extracted => exact extracted_keepsInv hi

theorem rxProduce_keepsInv {s : State} (hi : MachineInv s) (b : Byte) :
    MachineInv (s.rxProduce b) := by
  rcases rxProduce_cases s b with ⟨room, e⟩ | ⟨-, e⟩ <;> rw [e]
  · refine hi.congr rfl rfl ?_ hi.txDepth
    simp only [State.rxCount, List.length_append, List.length_singleton] at *
    omega
  · exact hi

theorem txDrain_keepsInv {s : State} (hi : MachineInv s) : MachineInv s.txDrain := by
  cases h : s.tx with
  | nil => rw [txDrain_nil s h]; exact hi
  | cons b rest =>
    rw [txDrain_cons s b rest h]
    have := hi.txDepth
    simp only [State.txCount, h, List.length_cons] at this
    exact hi.congr rfl rfl hi.rxDepth (by simp only [State.txCount]; omega)

/-- A tick moves the wait counter alone, which no part of the invariant but its own range reads (R141). -/
theorem tick_keepsInv {s : State} (hi : MachineInv s) : MachineInv s.tick := by
  rcases tick_cases s with ⟨-, hw, e⟩ | e <;> rw [e]
  · exact ⟨{ hi.regs with }, { hi.counters with w := hw }, { hi.candidate with }, hi.tbuf,
      { hi.txbuf with }, hi.visiting, hi.rxDepth, hi.txDepth⟩
  · exact hi

/-- A reset meets the invariant with queues within their capacities (R160). -/
theorem applyReset_keepsInv {s : State} (hi : MachineInv s) : MachineInv s.applyReset where
  regs := ⟨(by decide : bit 0x00 6 = false ∧ bit 0x00 7 = false),
    by simp [State.busy, Regs.reset, Engine.reset, bit],
    (by decide : bit 0x00 TBUF_VALID = false), .checkOk, rfl⟩
  counters := by constructor <;> simp [Engine.reset, Fsm.searches]
  candidate := ⟨nofun, nofun, nofun⟩
  tbuf := .inl ⟨rfl, rfl⟩
  txbuf := ⟨(by decide : cmdChecksum Engine.reset.txbuf = Engine.reset.txbuf[8]), nofun⟩
  visiting := fun h => absurd rfl h
  rxDepth := hi.rxDepth
  txDepth := hi.txDepth

theorem agentStep_keepsInv {a : AgentStep} {s t : State} (hi : MachineInv s)
    (h : agentStep a s = .next t) : MachineInv t := by
  cases a with
  | hostRead addr => cases h; exact hi.congr rfl rfl hi.rxDepth hi.txDepth
  | hostWrite addr v => exact hostWrite_keepsInv hi h
  | engine => exact engineMove_keepsInv hi (engineStep_move h)
  | rxProduce b => cases h; exact rxProduce_keepsInv hi b
  | txDrain => cases h; exact txDrain_keepsInv hi
  | tick => cases h; exact tick_keepsInv hi
  | reset => cases h; exact applyReset_keepsInv hi

/-- Settles O53: a step is an agent's step from a state with another schedule and host program
(`step_cases`), of which the invariant does not speak, and every agent's step keeps it. -/
theorem everyStepKeepsInv : Obligations.EveryStepKeepsInv := by
  intro s t hi h
  rcases step_cases h with ⟨a, l, p, ha⟩ | ⟨l, rfl⟩
  · have hi' : MachineInv ((s.withSchedule l).withProgram p) :=
      hi.congr rfl rfl hi.rxDepth hi.txDepth
    exact agentStep_keepsInv hi' ha
  · exact hi.congr rfl rfl hi.rxDepth hi.txDepth

end Sys2Proof.Proofs
end

section
/-! The encodings of spec/10_state.md (R20, R31) and the step of an issue (R21). -/

namespace Sys2Proof.Proofs

open Sys2Proof.Machine

theorem addr_of_ofAddr : ∀ a : Byte, ∀ r ∈ RegName.ofAddr a, r.addr = a := by decide

theorem ofAddr_addr (r : RegName) : RegName.ofAddr r.addr = some r := by
  cases r
  case resp i => exact ofAddr_resp i
  case frameOut i => exact ofAddr_frameOut i
  all_goals rfl

/-- Settles O3: the map sends every register's address back to it (`ofAddr_addr`), and finds no register
at another's address (`addr_of_ofAddr`). -/
theorem registerAddressesRoundTrip : Obligations.RegisterAddressesRoundTrip := by
  intro r a
  constructor
  · intro h
    exact addr_of_ofAddr a r h
  · rintro rfl
    exact ofAddr_addr r

theorem ofCode_code (f : Fsm) : Fsm.ofCode f.code = f := by
  cases f
  case unused n =>
    have unused : ∀ n : Fin 4, Fsm.ofCode (Fsm.unused n).code = .unused n := by decide
    exact unused n
  all_goals rfl

theorem code_ofCode : ∀ c : BitVec 4, (Fsm.ofCode c).code = c := by decide

/-- Settles O5: the codes as R31 lists them, and the two round trips. -/
theorem fsmCodesRoundTrip : Obligations.FsmCodesRoundTrip :=
  ⟨rfl, rfl, rfl, rfl, rfl, rfl, rfl, rfl, rfl, rfl, rfl, rfl, by decide, ofCode_code, code_ofCode⟩

theorem opByteOf_encode (i : Instr) : opByteOf 8 (encode i).toNat = encode i := by cases i <;> rfl

/-- Settles O8: the scheduled write of `OP` is its agent's step (`step_cons`), which runs the operation its
byte decodes to; `withFetchWord` schedules that write with the operation's own byte. -/
theorem stepRunsIssuedOperation : Obligations.StepRunsIssuedOperation := by
  have issue (s : State) (v : Byte) (i : Instr) (rest : List Turn)
      (hs : s.schedule = .agent (.hostWrite 0x00 v) :: rest) (hd : decode v = .ok i) :
      step s = exec i { s with schedule := rest } := by
    rw [step_cons s _ rest hs]
    exact hostWrite_op _ hd
  refine ⟨issue, fun s i => ?_⟩
  unfold State.withFetchWord
  rw [opByteOf_encode]
  exact issue (s.scheduleOp (encode i)) (encode i) i s.schedule rfl (decode_encode i)

end Sys2Proof.Proofs
end

section
/-! Which steps write the registers and the telemetry buffer of spec/10_state.md (R21, R22, R27 to R29, R32):
first what the agents around the Engine leave alone, then the Engine's moves by what they write. -/

namespace Sys2Proof.Proofs

open Sys2Proof.Machine

/-! ### The agents around the Engine -/

/-- A host write leaves the Engine as it was, or issues an operation in an idle block (R80). -/
theorem hostWrite_eng {a v : Byte} {s t : State} (h : hostWrite a v s = .next t) :
    t.eng = s.eng ∨
    (a = 0x00 ∧ ∃ i, decode v = .ok i ∧ s.busy = false ∧ exec i s = .next t) := by
  rcases hostWrite_cases h with ⟨ha, i, hd, hx⟩ | ⟨-, -, rfl⟩ | ⟨-, rfl⟩
  · rcases exec_cases hx with ⟨hb, -⟩ | ⟨-, rfl⟩
    · exact .inr ⟨ha, i, hd, hb, hx⟩
    · exact .inl rfl
  · rcases refuseUndefined_cases s with ⟨-, e⟩ | ⟨-, e⟩ <;> rw [e] <;> exact .inl rfl
  · exact .inl (memWrite_eng s a v)

@[simp] theorem tick_fsm (s : State) : s.tick.eng.fsm = s.eng.fsm := by
  rcases tick_cases s with ⟨-, -, e⟩ | e <;> rw [e]

/-- Settles O16: of the steps from `IDLE` only the issue leaves it, since an idle Engine holds and the other
agents do not move the Engine's state. -/
theorem onlyOpWriteStartsOperation : Obligations.OnlyOpWriteStartsOperation := by
  refine ⟨fun a s t h hs ht => ?_, fun s => ⟨rfl, rfl⟩⟩
  cases a with
  | hostRead addr => cases h; exact absurd hs ht
  | hostWrite addr v =>
    rcases hostWrite_eng h with e | ⟨rfl, i, hd, hb, hx⟩
    · exact absurd (e ▸ hs) ht
    · exact ⟨v, i, rfl, hd, hb, hx⟩
  | engine =>
    have hold : engineStep s = .next s := engineStep_hold s (engineReady_idle s hs)
    cases hold.symm.trans h
    exact absurd hs ht
  | rxProduce b => cases h; exact absurd (by simpa using hs) ht
  | txDrain => cases h; exact absurd (by simpa using hs) ht
  | tick => cases h; exact absurd (by simpa using hs) ht
  | reset => cases h; exact absurd rfl ht

/-- A change of `STATUS` and `RESULT` alone keeps the PM registers. -/
theorem samePM_of_regs {s t : State} {st res : Byte}
    (h : t.regs = { s.regs with status := st, result := res }) : samePM s t := by
  rw [samePM, h]
  exact ⟨rfl, rfl, rfl, rfl, rfl, rfl⟩

theorem sameResults_refl (s : State) : sameResults s s :=
  ⟨rfl, rfl, samePM_of_regs rfl, rfl, rfl, rfl, rfl⟩

/-- A change of `STATUS` that keeps `TBUF_VALID` keeps the results. -/
theorem sameResults_of_status {s t : State} (hr : t.regs = { s.regs with status := t.regs.status })
    (hb : bit t.regs.status TBUF_VALID = bit s.regs.status TBUF_VALID)
    (htb : t.eng.tbuf = s.eng.tbuf) (htv : t.eng.tbufValid = s.eng.tbufValid) : sameResults s t := by
  refine ⟨?_, ?_, samePM_of_regs hr, ?_, hb, htb, htv⟩ <;> rw [hr]

theorem setFlag_sameResults (s : State) (b : Nat) (hb : b ≠ TBUF_VALID) :
    sameResults s (s.setFlag b) :=
  sameResults_of_status rfl (by simp [bit_setBit _ _ TBUF_VALID (by decide), hb.symm]) rfl rfl

theorem memWrite_sameResults (s : State) (a v : Byte) : sameResults s (s.memWrite a v) := by
  unfold State.memWrite
  split
  next r _ =>
    obtain ⟨h1, h2, h3, h4, h5, h6, h7, h8, h9⟩ := write_results s.regs v r
    exact ⟨h1, h2, ⟨h4, h5, h6, h7, h8, h9⟩, h3,
      write_status_bit _ v r TBUF_VALID (by decide) (by decide), rfl, rfl⟩
  next => exact sameResults_refl s

theorem hostWrite_sameResults {a v : Byte} {s t : State} (h : hostWrite a v s = .next t) :
    sameResults s t := by
  rcases hostWrite_cases h with ⟨-, i, -, hx⟩ | ⟨-, -, rfl⟩ | ⟨-, rfl⟩
  · rcases exec_cases hx with ⟨-, rfl⟩ | ⟨-, rfl⟩
    · exact sameResults_of_status (by simp)
        (by simp [bit_statusAtIssue _ TBUF_VALID (by decide)]) (by simp) (by simp)
    · exact setFlag_sameResults s _ (by decide)
  · rcases refuseUndefined_cases s with ⟨-, e⟩ | ⟨-, e⟩ <;> rw [e]
    · exact setFlag_sameResults s _ (by decide)
    · exact setFlag_sameResults s _ (by decide)
  · exact memWrite_sameResults s a v

/-- No agent but the Engine and Reset writes a result register or the telemetry buffer (R164). -/
theorem agentStep_sameResults {a : AgentStep} {s t : State} (h : agentStep a s = .next t)
    (he : a ≠ .engine) (hr : a ≠ .reset) : sameResults s t := by
  cases a with
  | hostRead addr => cases h; exact sameResults_refl s
  | hostWrite addr v => exact hostWrite_sameResults h
  | engine => exact absurd rfl he
  | rxProduce b => cases h; exact sameResults_of_status (by simp) (by simp) (by simp) (by simp)
  | txDrain => cases h; exact sameResults_of_status (by simp) (by simp) (by simp) (by simp)
  | tick =>
    cases h
    rcases tick_cases s with ⟨-, -, e⟩ | e <;> rw [e] <;> exact sameResults_refl s
  | reset => exact absurd rfl hr

/-! ### The Engine -/

/-- The registers differ in `STATUS` and `RESULT` at most, and the telemetry buffer is the same. -/
def keepsOutputs (s t : State) : Prop :=
  t.regs = { s.regs with status := t.regs.status, result := t.regs.result } ∧
  t.eng.tbuf = s.eng.tbuf ∧ t.eng.tbufValid = s.eng.tbufValid

theorem keepsOutputs_of_rxPopNB {s t : State} (h : keepsOutputs s.rxPopNB.2 t) : keepsOutputs s t := by
  obtain ⟨hr, htb, htv⟩ := h
  rw [rxPopNB_regs] at hr
  rw [rxPopNB_eng] at htb htv
  exact ⟨hr, htb, htv⟩

theorem failedAttempt_keepsOutputs (s : State) : keepsOutputs s (failedAttempt s) := by
  rcases failedAttempt_cases s with ⟨-, e⟩ | ⟨-, e⟩ <;> rw [e] <;> exact ⟨rfl, rfl, rfl⟩

theorem headerStart_keepsOutputs (b : Byte) (s : State) : keepsOutputs s (headerStart b s) := by
  unfold headerStart
  split
  · exact ⟨rfl, rfl, rfl⟩
  · rcases byteSkip_cases s with ⟨-, e⟩ | ⟨-, e⟩ <;> rw [e] <;> exact ⟨rfl, rfl, rfl⟩

theorem headerNext_keepsOutputs (k : Fin 4) (b : Byte) (s : State) :
    keepsOutputs s (headerNext k b s) := by
  unfold headerNext
  split
  · exact failedAttempt_keepsOutputs s
  · split <;> exact ⟨rfl, rfl, rfl⟩

/-- The Engine's moves by what they write besides `STATUS` and `RESULT`: nothing, or the end of a response
read at `RX_WAIT` or `RESP_EVAL`, or a validated frame, or an extraction. -/
inductive EngineOutput (s : State) : State → Prop
  | kept (t : State) (h : keepsOutputs s t) : EngineOutput s t
  | timedOut (t : State) (i : Instr) (h : s.eng.fsm = .rxWait) (hi : s.running = some i)
      (hd : doneOf .timeoutError (recordResponse .timeoutError s) i = some t) : EngineOutput s t
  | evaluated (t : State) (i : Instr) (k : ResultKind) (h : s.eng.fsm = .respEval)
      (hi : s.running = some i) (hk : k ≠ .timeoutError)
      (hd : doneOf k (recordResponse k s) i = some t) : EngineOutput s t
  | accepted (h : s.eng.fsm = .syncEval) : EngineOutput s ((acceptFrame s).complete .checkOk)
  | extracted (h : s.eng.fsm = .extract) :
      EngineOutput s (State.complete
        { s.clearFlag TBUF_VALID with
          regs.frameOut := s.eng.tbuf
          eng.tbuf := Vector.replicate 32 0x00
          eng.tbufValid := false } .checkOk)

theorem engineStep_output {s t : State} (h : engineStep s = .next t) : EngineOutput s t := by
  cases engineStep_move h with
  | timedOut t i hf _ _ hi hd => exact .timedOut t i hf hi hd
  | evaluated t i k hf hi hk hd =>
    refine .evaluated t i k hf hi ?_ hd
    rw [hk]
    split <;> decide
  | accepted hf => exact .accepted hf
  | extracted hf => exact .extracted hf
  | headerByte => exact .kept _ (keepsOutputs_of_rxPopNB (headerStart_keepsOutputs _ _))
  | headerLater => exact .kept _ (keepsOutputs_of_rxPopNB (headerNext_keepsOutputs _ _ _))
  | bodyRead => exact .kept _ (keepsOutputs_of_rxPopNB ⟨rfl, rfl, rfl⟩)
  | rejected => exact .kept _ (failedAttempt_keepsOutputs s)
  | hold | cleared | pushed | sent | queryFlushed | sleepFlushed | settled | received | tooFew
  | searching => exact .kept _ ⟨rfl, rfl, rfl⟩

/-! ### The telemetry buffer -/

/-- The end of a response read leaves the telemetry buffer alone. -/
theorem doneOf_tbuf {k : ResultKind} {s t : State} {i : Instr}
    (h : doneOf k (recordResponse k s) i = some t) :
    t.eng.tbuf = s.eng.tbuf ∧ t.eng.tbufValid = s.eng.tbufValid := by
  obtain ⟨k', g, rfl, -⟩ := doneOf_complete h
  exact ⟨rfl, rfl⟩

/-- Settles O58: of the Engine's moves only an accepted frame and an extraction write the buffer, and of
the other agents only Reset. -/
theorem telemetryBufferWriters : Obligations.TelemetryBufferWriters := by
  intro a s t h
  by_cases he : a = .engine
  · subst he
    cases engineStep_output h with
    | kept t hk => exact .inl hk.2
    | timedOut t i _ _ hd => exact .inl (doneOf_tbuf hd)
    | evaluated t i k _ _ _ hd => exact .inl (doneOf_tbuf hd)
    | accepted hf => exact .inr (.inl ⟨rfl, hf, rfl, rfl, rfl⟩)
    | extracted hf => exact .inr (.inr (.inl ⟨rfl, hf, rfl, rfl⟩))
  by_cases hr : a = .reset
  · subst hr
    cases h
    exact .inr (.inr (.inr ⟨rfl, rfl, rfl⟩))
  · obtain ⟨-, -, -, -, -, htb, htv⟩ := agentStep_sameResults h he hr
    exact .inl ⟨htb, htv⟩

/-! ### The PM registers, `RESP` and `FRAME_OUT` -/

/-- How an operation that reads a response ends: `QUERY_DUST` by its own completion, the others in
`complete` alone, with the kind given unless an echo is wrong (R101 to R104). -/
theorem doneOf_cases {k : ResultKind} {s t : State} {i : Instr} (h : doneOf k s i = some t) :
    (i = .queryDust ∧ t = queryDustDone k s) ∨
    (i ≠ .queryDust ∧ (t = s.complete k ∨ (k = .checkOk ∧ t = s.complete .commandRejected))) := by
  have echo (p : Byte) : echoDone p k s = s.complete k ∨
      (k = .checkOk ∧ echoDone p k s = s.complete .commandRejected) := by
    unfold echoDone
    split
    next hk => exact .inr ⟨hk.1, rfl⟩
    next => exact .inl rfl
  cases i <;> cases h
  case readResponse => exact .inr ⟨by decide, .inl rfl⟩
  case queryDust => exact .inl ⟨rfl, rfl⟩
  case enterSleep => exact .inr ⟨by decide, echo _⟩
  case exitSleep => exact .inr ⟨by decide, echo _⟩

theorem readsResponse_of_doneOf {k : ResultKind} {s t : State} {i : Instr}
    (h : doneOf k s i = some t) : readsResponse i = true := by
  cases i <;> first | rfl | cases h

/-- `QUERY_DUST` ends with `CheckOk` and the reading of R67, or with another kind and zeros (R102). -/
theorem queryDustDone_pm (k : ResultKind) (s : State) :
    ((queryDustDone k s).regs.result = 0x00 ∧ k = .checkOk ∧
      holdsPM (queryDustDone k s) s.eng.rbuf[6] s.eng.rbuf[7] s.eng.rbuf[2] s.eng.rbuf[3]
        s.eng.rbuf[4] s.eng.rbuf[5]) ∨
    ((queryDustDone k s).regs.result ≠ 0x00 ∧ holdsPM (queryDustDone k s) 0 0 0 0 0 0) := by
  unfold queryDustDone
  split
  next h =>
    refine .inl ⟨rfl, h.1, ?_⟩
    simp [holdsPM, dustPM1_0, dustPM2_5, dustPM10]
  next h =>
    refine .inr ⟨?_, ?_⟩
    · show (if k = .checkOk then ResultKind.unexpectedReply else k).code ≠ 0x00
      cases k <;> decide
    · exact ⟨rfl, rfl, rfl, rfl, rfl, rfl⟩

/-- An expired wait ends with `TimeoutError` (R92). -/
theorem doneOf_timeoutError_result {s t : State} {i : Instr}
    (h : doneOf .timeoutError s i = some t) : t.regs.result = 0x02 := by
  rcases doneOf_cases h with ⟨-, rfl⟩ | ⟨-, rfl | ⟨hk, -⟩⟩
  · rfl
  · rfl
  · cases hk

/-- The end of a response read writes the PM registers in `QUERY_DUST` only. -/
theorem doneOf_pm {k : ResultKind} {s t : State} {i : Instr}
    (h : doneOf k (recordResponse k s) i = some t) :
    samePM s t ∨ (i = .queryDust ∧ t = queryDustDone k (recordResponse k s)) := by
  rcases doneOf_cases h with hq | ⟨-, rfl | ⟨-, rfl⟩⟩
  · exact .inr hq
  · exact .inl ⟨rfl, rfl, rfl, rfl, rfl, rfl⟩
  · exact .inl ⟨rfl, rfl, rfl, rfl, rfl, rfl⟩

/-- The end of a response read is in `IDLE`, with `RESP` recorded and `FRAME_OUT` as it was. -/
theorem doneOf_resp {k : ResultKind} {s t : State} {i : Instr}
    (h : doneOf k (recordResponse k s) i = some t) :
    t.eng.fsm = .idle ∧
    t.regs.resp = (if k = .timeoutError then Vector.replicate 9 0x00 else s.eng.rbuf) ∧
    t.regs.frameOut = s.regs.frameOut := by
  obtain ⟨k', g, rfl, -, hresp, hout, -⟩ := doneOf_complete h
  exact ⟨rfl, hresp, hout⟩

/-- Settles O57: the Engine's moves by what they write (`EngineOutput`); the other agents write none of
these registers. -/
theorem resultRegisterWriters : Obligations.ResultRegisterWriters := by
  intro a s t h hr
  by_cases he : a = .engine
  · subst he
    cases engineStep_output h with
    | kept t hk =>
      exact ⟨.inl (samePM_of_regs hk.1), .inl (by rw [hk.1]), .inl (by rw [hk.1])⟩
    | timedOut t i hf hi hd =>
      obtain ⟨hidle, hresp, hout⟩ := doneOf_resp hd
      have hres := doneOf_timeoutError_result hd
      refine ⟨?_, .inr ⟨rfl, hidle, ⟨i, hi, readsResponse_of_doneOf hd⟩,
        .inr ⟨hf, hresp, hres⟩⟩, .inl hout⟩
      rcases doneOf_pm hd with hpm | ⟨rfl, rfl⟩
      · exact .inl hpm
      · rcases queryDustDone_pm .timeoutError (recordResponse .timeoutError s) with
          ⟨-, hk, -⟩ | ⟨hne, hpm⟩
        · cases hk
        · exact .inr ⟨rfl, hi, hidle, .inr ⟨.inr hf, hne, hpm⟩⟩
    | evaluated t i k hf hi hk hd =>
      obtain ⟨hidle, hresp, hout⟩ := doneOf_resp hd
      rw [if_neg hk] at hresp
      refine ⟨?_, .inr ⟨rfl, hidle, ⟨i, hi, readsResponse_of_doneOf hd⟩,
        .inl ⟨hf, hresp⟩⟩, .inl hout⟩
      rcases doneOf_pm hd with hpm | ⟨rfl, rfl⟩
      · exact .inl hpm
      · rcases queryDustDone_pm k (recordResponse k s) with ⟨hz, -, hpm⟩ | ⟨hne, hpm⟩
        · exact .inr ⟨rfl, hi, hidle, .inl ⟨hf, hz, hpm⟩⟩
        · exact .inr ⟨rfl, hi, hidle, .inr ⟨.inl hf, hne, hpm⟩⟩
    | accepted => exact ⟨.inl (samePM_of_regs rfl), .inl rfl, .inl rfl⟩
    | extracted hf =>
      exact ⟨.inl ⟨rfl, rfl, rfl, rfl, rfl, rfl⟩, .inl rfl, .inr ⟨rfl, hf, rfl⟩⟩
  · obtain ⟨-, hresp, hpm, hout, -⟩ := agentStep_sameResults h he hr
    exact ⟨.inl hpm, .inl hresp, .inl hout⟩

end Sys2Proof.Proofs
end

section
/-! Which steps set and clear each bit of `STATUS` (spec/10_state.md R22; spec/60_exceptions.md R143) and which change
an operand register (spec/70_reset_and_hazards.md R165). -/

namespace Sys2Proof.Proofs

open Sys2Proof.Machine

/-! ### What a change of `STATUS` sets and clears -/

/-- What sets a bit of `STATUS`, bit by bit (R22). -/
inductive SetBy (a : AgentStep) (s t : State) : Nat → Prop
  | busy (v : Byte) (i : Instr) (ha : a = .hostWrite 0x00 v) (hd : decode v = .ok i) :
      SetBy a s t BUSY
  | done (h : completes a s t) : SetBy a s t DONE
  | illegalOp (v : Byte) (ha : a = .hostWrite 0x00 v) (hb : s.busy = false)
      (hv : v.toNat = 0 ∨ 9 ≤ v.toNat) : SetBy a s t ILLEGAL_OP
  | opWhileBusy (v : Byte) (ha : a = .hostWrite 0x00 v) (hb : s.busy = true) :
      SetBy a s t OP_WHILE_BUSY
  | tbufValid (h : completes a s t) (hf : s.eng.fsm = .syncEval) (hr : t.regs.result = 0x00) :
      SetBy a s t TBUF_VALID
  | rxUnderflow (ha : a = .engine) (hx : s.rx = [])
      (hf : s.eng.fsm = .syncHdr ∨ s.eng.fsm = .syncBody) : SetBy a s t RX_UNDERFLOW

/-- What clears a bit of `STATUS` (R22, R143). -/
inductive ClearedBy (a : AgentStep) (s t : State) : Nat → Prop
  | reset (b : Nat) (ha : a = .reset) : ClearedBy a s t b
  | acknowledged (b : Nat) (hb : b ∈ w1cBits) (ha : acknowledges b a) : ClearedBy a s t b
  | busy (h : completes a s t) : ClearedBy a s t BUSY
  | done (v : Byte) (i : Instr) (ha : a = .hostWrite 0x00 v) (hd : decode v = .ok i)
      (hb : s.busy = false) : ClearedBy a s t DONE
  | tbufValid (h : completes a s t) (hf : s.eng.fsm = .extract) : ClearedBy a s t TBUF_VALID

/-- The change of every bit of `STATUS` has its cause. -/
def bitsCaused (a : AgentStep) (s t : State) : Prop :=
  ∀ b < 8, (setsBit b s t → SetBy a s t b) ∧ (clearsBit b s t → ClearedBy a s t b)

theorem bitsCaused_of_same {a : AgentStep} {s t : State} (h : t.regs.status = s.regs.status) :
    bitsCaused a s t := by
  intro b _
  simp [setsBit, clearsBit, h]

theorem bitsCaused_of_setBit {a : AgentStep} {s t : State} {f : Nat}
    (h : t.regs.status = setBit s.regs.status f) (hf : SetBy a s t f) : bitsCaused a s t := by
  intro b hb
  simp only [setsBit, clearsBit, h, bit_setBit _ _ b hb]
  constructor
  · rintro ⟨h0, h1⟩
    obtain rfl : b = f := by simpa [h0] using h1
    exact hf
  · rintro ⟨h0, h1⟩
    simp [h0] at h1

theorem bitsCaused_of_issue {a : AgentStep} {s t : State}
    (h : t.regs.status = statusAtIssue s.regs.status) (hset : SetBy a s t BUSY)
    (hclear : ClearedBy a s t DONE) : bitsCaused a s t := by
  intro b hb
  simp only [setsBit, clearsBit, h, bit_statusAtIssue _ b hb]
  constructor
  · rintro ⟨h0, h1⟩
    obtain ⟨rfl, -⟩ : b = BUSY ∧ b ≠ DONE := by simpa [h0] using h1
    exact hset
  · rintro ⟨h0, h1⟩
    obtain rfl : b = DONE := by simpa [h0] using h1
    exact hclear

/-- A completion over a changed `STATUS` causes what the change causes, and sets `DONE` and clears `BUSY`. -/
theorem bitsCaused_of_completion {a : AgentStep} {s t : State} {st : Byte}
    (h : t.regs.status = statusAtCompletion st) (hc : completes a s t)
    (hset : ∀ b < 8, bit s.regs.status b = false → bit st b = true → SetBy a s t b)
    (hclear : ∀ b < 8, bit s.regs.status b = true → bit st b = false → ClearedBy a s t b) :
    bitsCaused a s t := by
  intro b hb
  simp only [setsBit, clearsBit, h, bit_statusAtCompletion _ b hb]
  constructor
  · rintro ⟨h0, h1⟩
    by_cases hd : b = DONE
    · exact hd ▸ .done hc
    · simp only [hd, decide_false, Bool.or_false, Bool.and_eq_true] at h1
      exact hset b hb h0 h1.1
  · rintro ⟨h0, h1⟩
    by_cases hy : b = BUSY
    · exact hy ▸ .busy hc
    · simp only [hy, decide_false, Bool.not_false, Bool.and_true, Bool.or_eq_false_iff] at h1
      exact hclear b hb h0 h1.1

/-! ### The agents -/

theorem engineStep_bitsCaused {s t : State} (h : engineStep s = .next t) :
    bitsCaused .engine s t := by
  cases engineStep_status h with
  | same h => exact bitsCaused_of_same h
  | underflow e hf h => exact bitsCaused_of_setBit h (.rxUnderflow rfl e hf)
  | completed hs ht h =>
    exact bitsCaused_of_completion h ⟨rfl, hs, ht⟩ (fun b _ h0 h1 => by simp [h0] at h1)
      (fun b _ h0 h1 => by simp [h0] at h1)
  | underflowed hf ht e h =>
    refine bitsCaused_of_completion h ⟨rfl, by simp [hf], ht⟩ (fun b hb h0 h1 => ?_)
      (fun b hb h0 h1 => ?_)
    · obtain rfl : b = RX_UNDERFLOW := by simpa [hb, h0] using h1
      exact .rxUnderflow rfl e (.inl hf)
    · simp [hb, h0] at h1
  | accepted hf ht hr h =>
    have hc : completes .engine s t := ⟨rfl, by simp [hf], ht⟩
    refine bitsCaused_of_completion h hc (fun b hb h0 h1 => ?_) (fun b hb h0 h1 => ?_)
    · obtain rfl : b = TBUF_VALID := by simpa [hb, h0] using h1
      exact .tbufValid hc hf hr
    · simp [hb, h0] at h1
  | extracted hf ht h =>
    have hc : completes .engine s t := ⟨rfl, by simp [hf], ht⟩
    refine bitsCaused_of_completion h hc (fun b hb h0 h1 => ?_) (fun b hb h0 h1 => ?_)
    · simp [hb, h0] at h1
    · obtain rfl : b = TBUF_VALID := by simpa [hb, h0] using h1
      exact .tbufValid hc hf

/-- A write of a register other than `OP` changes `STATUS` at its own address only (R41). -/
theorem memWrite_status (s : State) (a v : Byte) :
    (s.memWrite a v).regs.status = s.regs.status ∨
    (a = 0x01 ∧ (s.memWrite a v).regs.status = statusAfterWrite s.regs.status v) := by
  unfold State.memWrite
  split
  next r hr =>
    by_cases h : r = .status
    · subst h
      exact .inr ⟨(addr_of_ofAddr a .status hr).symm, rfl⟩
    · left
      cases r <;> first | rfl | exact absurd rfl h
  next => exact .inl rfl

theorem hostWrite_bitsCaused {a v : Byte} {s t : State} (h : hostWrite a v s = .next t) :
    bitsCaused (.hostWrite a v) s t := by
  rcases hostWrite_cases h with ⟨rfl, i, hd, hx⟩ | ⟨rfl, hv, rfl⟩ | ⟨-, rfl⟩
  · rcases exec_cases hx with ⟨hb, rfl⟩ | ⟨hb, rfl⟩
    · exact bitsCaused_of_issue (by simp) (.busy v i rfl hd) (.done v i rfl hd hb)
    · exact bitsCaused_of_setBit rfl (.opWhileBusy v rfl hb)
  · rcases refuseUndefined_cases s with ⟨hb, e⟩ | ⟨hb, e⟩ <;> rw [e]
    · exact bitsCaused_of_setBit rfl (.opWhileBusy v rfl hb)
    · exact bitsCaused_of_setBit rfl (.illegalOp v rfl hb hv)
  · rcases memWrite_status s a v with e | ⟨rfl, e⟩
    · exact bitsCaused_of_same e
    · intro b hb
      simp only [setsBit, clearsBit, e, bit_statusAfterWrite _ _ _ hb]
      constructor
      · rintro ⟨h0, h1⟩
        simp [h0] at h1
      · rintro ⟨h0, h1⟩
        obtain ⟨hw, hv⟩ : b ∈ w1cBits ∧ bit v b = true := by simpa [h0] using h1
        exact .acknowledged b hw (.inr ⟨v, rfl, hv⟩)

theorem agentStep_bitsCaused {a : AgentStep} {s t : State} (h : agentStep a s = .next t) :
    bitsCaused a s t := by
  cases a with
  | hostRead addr => cases h; exact bitsCaused_of_same rfl
  | hostWrite addr v => exact hostWrite_bitsCaused h
  | engine => exact engineStep_bitsCaused h
  | rxProduce b => cases h; exact bitsCaused_of_same (by simp)
  | txDrain => cases h; exact bitsCaused_of_same (by simp)
  | tick => cases h; exact bitsCaused_of_same (by rcases tick_cases s with ⟨-, -, e⟩ | e <;> rw [e])
  | reset =>
    cases h
    intro b hb
    refine ⟨?_, fun _ => .reset b rfl⟩
    rintro ⟨-, h1⟩
    have zero : bit 0x00 b = false := by simp [bit]
    exact absurd (zero.symm.trans h1) nofun

/-! ### The operand registers -/

/-- The registers that hold operands, in the order of their addresses (R165). -/
def operands (g : Regs) : List Byte :=
  [g.timeoutH, g.timeoutL, g.cmd, g.p0, g.p1, g.p2, g.p3, g.p4, g.mode]

theorem read_eq_of_operands {g g' : Regs} (h : operands g' = operands g) {r : RegName}
    (hr : r.access = .rw) : g'.read r = g.read r := by
  simp only [operands, List.cons.injEq, and_true] at h
  obtain ⟨h1, h2, h3, h4, h5, h6, h7, h8, h9⟩ := h
  cases r <;> first | assumption | cases hr

/-- The addresses 0x03..0x0B are operand registers (R20). -/
theorem memRead_operand {a : Byte} (h3 : 0x03 ≤ a.toNat) (hB : a.toNat ≤ 0x0B) :
    ∃ r, RegName.ofAddr a = some r ∧ r.access = .rw ∧ ∀ s : State, s.memRead a = s.regs.read r := by
  have h := ofAddr_readWrite a ⟨h3, hB⟩
  cases hr : RegName.ofAddr a with
  | none => rw [hr] at h; cases h
  | some r =>
    rw [hr] at h
    refine ⟨r, rfl, by simpa using h, fun s => ?_⟩
    unfold State.memRead
    rw [hr]

/-- A write of another register leaves an operand register alone (R41). -/
theorem write_read_operand {g : Regs} {v : Byte} {r q : RegName} (hq : q.access = .rw)
    (hne : q ≠ r) : (g.write v r).read q = g.read q := by
  cases hr : r.access with
  | rw => exact (write_readWrite g v r q hr).2.1 hne
  | ro => rw [write_readOnly g v r hr]
  | wo =>
    obtain rfl : r = .op := by cases r <;> first | rfl | cases hr
    rfl
  | mixed =>
    obtain rfl : r = .status := by cases r <;> first | rfl | cases hr
    exact read_eq_of_operands (by rfl) hq

/-- A host write of another address leaves an operand register alone. -/
theorem hostWrite_memRead {a r v : Byte} {s t : State} (h : hostWrite a v s = .next t)
    (h3 : 0x03 ≤ r.toNat) (hB : r.toNat ≤ 0x0B) (hne : a ≠ r) : t.memRead r = s.memRead r := by
  obtain ⟨q, hq, hrw, hread⟩ := memRead_operand h3 hB
  rw [hread, hread]
  rcases hostWrite_cases h with ⟨-, i, -, hx⟩ | ⟨-, -, rfl⟩ | ⟨-, rfl⟩
  · rcases exec_cases hx with ⟨-, rfl⟩ | ⟨-, rfl⟩ <;>
      exact read_eq_of_operands (by simp [operands]) hrw
  · rcases refuseUndefined_cases s with ⟨-, e⟩ | ⟨-, e⟩ <;> rw [e] <;>
      exact read_eq_of_operands (by rfl) hrw
  · unfold State.memWrite
    split
    next p hp =>
      refine write_read_operand hrw (fun e => hne ?_)
      rw [← addr_of_ofAddr a p hp, ← e, addr_of_ofAddr r q hq]
    next => rfl

/-- The Engine writes no operand register (R165). -/
theorem engineStep_operands {s t : State} (h : engineStep s = .next t) :
    operands t.regs = operands s.regs := by
  have response {k : ResultKind} {i : Instr} (hd : doneOf k (recordResponse k s) i = some t) :
      operands t.regs = operands s.regs := by
    rcases doneOf_cases hd with ⟨-, rfl⟩ | ⟨-, rfl | ⟨-, rfl⟩⟩
    · unfold queryDustDone
      split <;> rfl
    · rfl
    · rfl
  cases engineStep_output h with
  | kept t hk => rw [hk.1]; rfl
  | timedOut t i _ _ hd => exact response hd
  | evaluated t i k _ _ _ hd => exact response hd
  | accepted => rfl
  | extracted => rfl

theorem agentStep_operand {a : AgentStep} {s t : State} (h : agentStep a s = .next t) {r : Byte}
    (h3 : 0x03 ≤ r.toNat) (hB : r.toNat ≤ 0x0B) (hne : t.memRead r ≠ s.memRead r) :
    a = .reset ∨ ∃ v : Byte, a = .hostWrite r v := by
  have same {g : Prop} (ho : operands t.regs = operands s.regs) : g := by
    obtain ⟨q, -, hrw, hread⟩ := memRead_operand h3 hB
    rw [hread, hread] at hne
    exact absurd (read_eq_of_operands ho hrw) hne
  cases a with
  | hostRead addr => cases h; exact same rfl
  | hostWrite addr v =>
    by_cases ha : addr = r
    · exact .inr ⟨v, by rw [ha]⟩
    · exact absurd (hostWrite_memRead h h3 hB ha) hne
  | engine => exact same (engineStep_operands h)
  | rxProduce b => cases h; exact same (by simp)
  | txDrain => cases h; exact same (by simp)
  | tick => cases h; exact same (by rcases tick_cases s with ⟨-, -, e⟩ | e <;> rw [e])
  | reset => exact .inl rfl

/-! ### The clauses -/

theorem w1cBits_lt_six : ∀ b ∈ w1cBits, b < 6 := by decide

/-- The three error flags are cleared by a write of 1 or a reset only (R143). -/
theorem acknowledges_of_clearedBy {a : AgentStep} {s t : State} {b : Nat} (h : ClearedBy a s t b)
    (hb : b ∈ [ILLEGAL_OP, OP_WHILE_BUSY, RX_UNDERFLOW]) : acknowledges b a := by
  cases h with
  | reset _ ha => exact .inl ha
  | acknowledged _ _ ha => exact ha
  | busy | done | tbufValid => exact absurd hb (by decide)

/-- Settles O60: what sets a bit and what clears it are the cases of `SetBy` and `ClearedBy` for that bit,
and an operand register changes by `agentStep_operand`. -/
theorem statusAndOperandWriters : Obligations.StatusAndOperandWriters := by
  intro a s t h
  have hset {b : Nat} (hb : b < 8) := (agentStep_bitsCaused h b hb).1
  have hclear {b : Nat} (hb : b < 8) := (agentStep_bitsCaused h b hb).2
  have hflag {b : Nat} (hb : b < 8) (hf : b ∈ [ILLEGAL_OP, OP_WHILE_BUSY, RX_UNDERFLOW])
      (hs : clearsBit b s t) : acknowledges b a := acknowledges_of_clearedBy (hclear hb hs) hf
  refine ⟨?busySet, ?busyCleared, ?doneSet, ?doneCleared, ?illegalSet, hflag (by decide) (by decide),
    ?opWhileBusySet, hflag (by decide) (by decide), ?tbufSet, ?tbufCleared, ?underflowSet,
    hflag (by decide) (by decide), ?reserved, fun r h3 hB hne => agentStep_operand h h3 hB hne⟩
  case busySet =>
    intro hs
    cases hset (by decide) hs with
    | busy v i ha hd => exact ⟨v, i, ha, hd⟩
  case busyCleared =>
    intro hs
    cases hclear (by decide) hs with
    | reset _ ha => exact .inl ha
    | acknowledged _ hb => exact absurd hb (by decide)
    | busy hc => exact .inr hc
  case doneSet =>
    intro hs
    cases hset (by decide) hs with
    | done hc => exact hc
  case doneCleared =>
    intro hs
    cases hclear (by decide) hs with
    | reset _ ha => exact .inl (.inl ha)
    | acknowledged _ _ ha => exact .inl ha
    | done v i ha hd hb => exact .inr ⟨v, i, ha, hd, hb⟩
  case illegalSet =>
    intro hs
    cases hset (by decide) hs with
    | illegalOp v ha hb hv => exact ⟨v, ha, hb, hv⟩
  case opWhileBusySet =>
    intro hs
    cases hset (by decide) hs with
    | opWhileBusy v ha hb => exact ⟨hb, v, ha⟩
  case tbufSet =>
    intro hs
    cases hset (by decide) hs with
    | tbufValid hc hf hr => exact ⟨hc, hf, hr⟩
  case tbufCleared =>
    intro hs
    cases hclear (by decide) hs with
    | reset _ ha => exact .inl ha
    | acknowledged _ hb => exact absurd hb (by decide)
    | tbufValid hc hf => exact .inr ⟨hc, hf⟩
  case underflowSet =>
    intro hs
    cases hset (by decide) hs with
    | rxUnderflow ha hx hf => exact ⟨ha, hx, hf⟩
  case reserved =>
    intro b hb h6
    refine ⟨fun hs => ?_, fun hs => ?_⟩
    · cases hset hb hs <;> exact absurd h6 (by decide)
    · cases hclear hb hs with
      | reset _ ha => exact ha
      | acknowledged _ hw => exact absurd h6 (Nat.not_le.mpr (w1cBits_lt_six b hw))
      | busy | done | tbufValid => exact absurd h6 (by decide)

end Sys2Proof.Proofs
end

section
/-! The host register space of spec/20_memory.md (R40 to R42, R45): the access to each kind of address said once,
then what the Host's reads and writes do. -/

namespace Sys2Proof.Proofs

open Sys2Proof.Machine

/-! ### Reads -/

theorem memRead_addr (s : State) (r : RegName) : s.memRead r.addr = s.regs.read r := by
  unfold State.memRead
  rw [ofAddr_addr r]

theorem memRead_unmapped (s : State) {a : Byte} (h : RegName.ofAddr a = none) :
    s.memRead a = 0x00 := by
  unfold State.memRead
  rw [h]

theorem memRead_status_bit (s : State) (b : Nat) (hb : b < 8) :
    bit (s.memRead 0x01) b = (bit s.regs.status b && decide (b < 6)) := by
  rw [← bit_statusRead s.regs.status b hb]
  exact congrArg (bit · b) (memRead_addr s .status)

/-- Settles O9: a mapped address reads as its register (`memRead_addr`), and an unmapped one as 0. -/
theorem hostReadReturnsRegister : Obligations.HostReadReturnsRegister := by
  refine ⟨fun s a => rfl, fun s => ?_⟩
  have read (r : RegName) : s.memRead r.addr = s.regs.read r := memRead_addr s r
  exact ⟨read .op, memRead_status_bit s, read .result, read .timeoutH, read .timeoutL, read .cmd,
    read .p0, read .p1, read .p2, read .p3, read .p4, read .mode, read .pm1_0H, read .pm1_0L,
    read .pm2_5H, read .pm2_5L, read .pm10H, read .pm10L, fun i => read (.resp i),
    fun i => read (.frameOut i), fun a ha => memRead_unmapped s (ofAddr_unmapped a ha)⟩

/-! ### Writes -/

/-- A write of any address but `OP`'s is the register file's own (R41). -/
theorem hostWrite_of_ne_op (s : State) (v : Byte) {a : Byte} (h : a ≠ 0x00) :
    hostWrite a v s = .next (s.memWrite a v) := if_neg h

theorem memWrite_mapped (s : State) (v : Byte) {a : Byte} {r : RegName}
    (h : RegName.ofAddr a = some r) : s.memWrite a v = { s with regs := s.regs.write v r } := by
  unfold State.memWrite
  rw [h]

theorem memWrite_readOnly (s : State) (v : Byte) {a : Byte}
    (h : ∀ r ∈ RegName.ofAddr a, r.access = .ro) : s.memWrite a v = s := by
  unfold State.memWrite
  split
  next r hr => rw [write_readOnly s.regs v r (h r hr)]
  next => rfl

theorem memWrite_sameOutside (s : State) (a v : Byte) : sameOutside s (s.memWrite a v) := by
  simp [sameOutside]

theorem hostWrite_status (s : State) (v : Byte) :
    hostWrite 0x01 v s = .next { s with regs.status := statusAfterWrite s.regs.status v } := rfl

/-- A write of a read-write register sets what its own address reads, and keeps what every other address
reads and the whole of `STATUS` (R41). -/
theorem memWrite_readWrite (s : State) (v : Byte) {a : Byte} {r : RegName}
    (hr : RegName.ofAddr a = some r) (hrw : r.access = .rw) :
    (s.memWrite a v).memRead a = v ∧
    (∀ a', a' ≠ a → (s.memWrite a v).memRead a' = s.memRead a') ∧
    (s.memWrite a v).regs.status = s.regs.status := by
  obtain rfl := addr_of_ofAddr a r hr
  rw [memWrite_mapped s v hr]
  have write (q : RegName) := write_readWrite s.regs v r q hrw
  refine ⟨(memRead_addr _ r).trans (write r).1, fun a' hne => ?_, (write r).2.2⟩
  cases hq : RegName.ofAddr a' with
  | none => rw [memRead_unmapped _ hq, memRead_unmapped _ hq]
  | some q =>
    obtain rfl := addr_of_ofAddr a' q hq
    rw [memRead_addr, memRead_addr]
    exact (write q).2.1 (fun e => hne (congrArg RegName.addr e))

/-- A write of a read-only or unmapped address changes nothing (R41, R42). -/
theorem hostWrite_readOnly (s : State) (v : Byte) {a : Byte} (h : a.toNat = 0x02 ∨ 0x0C ≤ a.toNat) :
    hostWrite a v s = .next s := by
  have hne : a ≠ 0x00 := by rintro rfl; revert h; decide
  rw [hostWrite_of_ne_op s v hne, memWrite_readOnly s v (ofAddr_readOnly a h)]

/-- Settles O10: `OP` by its decoder, `STATUS` bit by bit, then the operand registers and the read-only
addresses by the access kind of R20's table. -/
theorem hostWriteByRegister : Obligations.HostWriteByRegister := by
  intro s v
  refine ⟨?op, ?status, ?operand, fun a ha => hostWrite_readOnly s v ha⟩
  case op => rfl
  case status =>
    exact ⟨_, hostWrite_status s v, rfl, fun b hb => bit_statusAfterWrite s.regs.status v b hb⟩
  case operand =>
    rintro a ⟨h3, hB⟩
    have hne : a ≠ 0x00 := by rintro rfl; revert h3; decide
    obtain ⟨r, hr, hrw, -⟩ := memRead_operand h3 hB
    obtain ⟨hself, hothers, hstatus⟩ := memWrite_readWrite s v hr hrw
    exact ⟨_, hostWrite_of_ne_op s v hne, hself, hothers, hstatus, memWrite_eng s a v,
      memWrite_sameOutside s a v⟩

/-- Settles O11: no register is at an unmapped address, and the reserved bits are masked on a read and are
no W1C bits. -/
theorem unmappedAddressesAreInert : Obligations.UnmappedAddressesAreInert := by
  constructor
  · intro s a v ha
    exact ⟨memRead_unmapped s (ofAddr_unmapped a ha), hostWrite_readOnly s v (by omega)⟩
  · intro s t v h b hb h6
    cases (hostWrite_status s v).symm.trans h
    have hw : b ∉ w1cBits := fun hw => Nat.not_le.mpr (w1cBits_lt_six b hw) h6
    constructor
    · rw [memRead_status_bit s b hb]
      simp [h6]
    · exact write_status_bit s.regs v .status b hb hw

/-! ### 16-bit values -/

theorem hiByte_loByte_toNat (v : Word16) : (hiByte v).toNat * 256 + (loByte v).toNat = v.toNat := by
  rw [← pair_toNat, pair_hiByte_loByte]

/-- Settles O12: each address reads as its register (`memRead_addr`), and the registers of a pair are the
value's two bytes. -/
theorem hostValuesAreBigEndian : Obligations.HostValuesAreBigEndian := by
  refine ⟨?timeout, ?dust, fun s i => memRead_addr s (.resp i), fun s i => memRead_addr s (.frameOut i)⟩
  case timeout =>
    intro s
    exact pair_toNat s.regs.timeoutH s.regs.timeoutL
  case dust =>
    intro s pm1_0 pm2_5 pm10
    exact ⟨hiByte_loByte_toNat pm1_0, hiByte_loByte_toNat pm2_5, hiByte_loByte_toNat pm10⟩

end Sys2Proof.Proofs
end

section
/-! The byte streams of spec/20_memory.md (R52 to R54): what each agent's step does to the queues and to the
history. -/

namespace Sys2Proof.Proofs

open Sys2Proof.Machine

/-- Settles O22: the RX producer with room and without, the TX drain with a byte and without. -/
theorem transportAgentsMoveBytes : Obligations.TransportAgentsMoveBytes := by
  refine ⟨?room, ?full, ?drains, ?empty⟩
  case room =>
    intro s b h
    exact congrArg _ (if_pos h)
  case full =>
    intro s b h
    exact congrArg _ (if_neg (Nat.not_lt.mpr h))
  case drains =>
    intro s b rest h
    exact congrArg _ (txDrain_cons s b rest h)
  case empty =>
    intro s h
    exact congrArg _ (txDrain_nil s h)

/-! ### A host write -/

theorem startOf_sameOutside (g : Regs) (i : Instr) (s : State) : sameOutside s (startOf g i s) := by
  cases i <;> exact ⟨rfl, rfl, rfl, rfl, rfl, rfl, rfl⟩

theorem hostWrite_sameOutside {a v : Byte} {s t : State} (h : hostWrite a v s = .next t) :
    sameOutside s t := by
  rcases hostWrite_cases h with ⟨-, i, -, hx⟩ | ⟨-, -, rfl⟩ | ⟨-, rfl⟩
  · rcases exec_cases hx with ⟨-, rfl⟩ | ⟨-, rfl⟩
    · exact startOf_sameOutside s.regs i (s.latchIssue i)
    · simp [sameOutside]
  · rcases refuseUndefined_cases s with ⟨-, e⟩ | ⟨-, e⟩ <;> simp [sameOutside, e]
  · exact memWrite_sameOutside s a v

/-! ### The Engine -/

theorem failedAttempt_sameOutside (s : State) : sameOutside s (failedAttempt s) := by
  rcases failedAttempt_cases s with ⟨-, e⟩ | ⟨-, e⟩ <;> simp [sameOutside, e]

theorem headerStart_sameOutside (b : Byte) (s : State) : sameOutside s (headerStart b s) := by
  unfold headerStart
  split
  · simp [sameOutside]
  · rcases byteSkip_cases s with ⟨-, e⟩ | ⟨-, e⟩ <;> simp [sameOutside, e]

theorem headerNext_sameOutside (k : Fin 4) (b : Byte) (s : State) :
    sameOutside s (headerNext k b s) := by
  unfold headerNext
  split
  · exact failedAttempt_sameOutside s
  · split <;> simp [sameOutside]

theorem doneOf_sameOutside {k : ResultKind} {s t : State} {i : Instr}
    (h : doneOf k (recordResponse k s) i = some t) : sameOutside s t := by
  obtain ⟨k', g, rfl, -⟩ := doneOf_complete h
  simp [sameOutside]

/-- What one turn of the Engine does to the transport: nothing, or one pop of the RX queue, or `RX_CLEAR`,
or the push of the frame byte that is next (R83, R87 to R90). -/
inductive EngineTransport (s t : State) : Prop
  | kept (h : sameOutside s t)
  | popped (h : sameOutside s.rxPopNB.2 t)
  | cleared (hf : s.eng.fsm = .rxClear) (h : sameOutside s.rxClear t)
  | pushed (b : Byte) (hf : s.eng.fsm = .txPush) (hb : s.eng.txbuf[s.eng.txidx]? = some b)
      (h : sameOutside (s.txPush b) t)

theorem EngineTransport.of_move {s t : State} (m : EngineMove s t) : EngineTransport s t := by
  cases m with
  | cleared h => exact .cleared h (by simp [sameOutside])
  | pushed h _ hi =>
    exact .pushed _ h (Vector.getElem?_eq_getElem hi) (by simp [sameOutside])
  | received b rest _ hr => exact .popped (by simp [sameOutside, receiveByte, rxPopNB_cons s b rest hr])
  | timedOut _ _ _ _ _ _ hd => exact .kept (doneOf_sameOutside hd)
  | evaluated _ _ _ _ _ _ hd => exact .kept (doneOf_sameOutside hd)
  | headerByte => exact .popped (headerStart_sameOutside _ _)
  | headerLater k => exact .popped (headerNext_sameOutside k _ _)
  | bodyRead => exact .popped (by simp [sameOutside, bodyByte])
  | rejected => exact .kept (failedAttempt_sameOutside s)
  | hold | sent | queryFlushed | sleepFlushed | settled | tooFew | searching | accepted | extracted =>
    exact .kept (by simp [sameOutside])

/-- A pop takes the head of the RX queue, or leaves an empty one as it is (R88). -/
theorem rxPopNB_rx_cases (s : State) :
    s.rxPopNB.2.rx = s.rx ∨ ∃ b, s.rx = b :: s.rxPopNB.2.rx := by
  rw [rxPopNB_rx]
  cases s.rx with
  | nil => exact .inl rfl
  | cons b rest => exact .inr ⟨b, rfl⟩

/-! ### The two streams -/

/-- Settles O23: the Engine's turn by what it does to the transport (`EngineTransport`); of the other agents
only the producer and the drain touch it. -/
theorem streamsKeepTheirOrder : Obligations.StreamsKeepTheirOrder := by
  intro a s t h
  have same (ho : sameOutside s t) : t.txlog ++ t.tx = s.txlog ++ s.tx ∧ t.rx = s.rx := by
    obtain ⟨hrx, htx, hlog, -⟩ := ho
    exact ⟨by rw [htx, hlog], hrx⟩
  cases a with
  | hostRead addr => cases h; exact ⟨.inl rfl, .inl rfl⟩
  | hostWrite addr v => exact (same (hostWrite_sameOutside h)).imp .inl .inl
  | engine =>
    cases EngineTransport.of_move (engineStep_move h) with
    | kept ho => exact (same ho).imp .inl .inl
    | popped ho =>
      obtain ⟨hrx, htx, hlog, -⟩ := ho
      refine ⟨.inl (by simp [htx, hlog]), ?_⟩
      rw [hrx]
      exact (rxPopNB_rx_cases s).imp_right fun ⟨b, hb⟩ => .inl ⟨b, hb, rfl⟩
    | cleared hf ho =>
      obtain ⟨hrx, htx, hlog, -⟩ := ho
      exact ⟨.inl (by simp [htx, hlog]), .inr (.inr (.inl ⟨hrx, rfl, hf⟩))⟩
    | pushed b hf hb ho =>
      obtain ⟨hrx, htx, hlog, -⟩ := ho
      exact ⟨.inr ⟨b, by simp [htx, hlog], rfl, hf, hb⟩, .inl hrx⟩
  | rxProduce b =>
    cases h
    refine ⟨.inl (by simp), ?_⟩
    rcases rxProduce_cases s b with ⟨-, e⟩ | ⟨-, e⟩ <;> rw [e]
    · exact .inr (.inr (.inr ⟨b, rfl, rfl⟩))
    · exact .inl rfl
  | txDrain => cases h; exact ⟨.inl (txDrain_stream s), .inl (txDrain_rx s)⟩
  | tick =>
    cases h
    rcases tick_cases s with ⟨-, -, e⟩ | e <;> rw [e] <;> exact ⟨.inl rfl, .inl rfl⟩
  | reset => cases h; exact ⟨.inl rfl, .inl rfl⟩

end Sys2Proof.Proofs
end

section
/-! The opcode map and the result codes of spec/30_encoding.md (R60, R62, R71). -/

namespace Sys2Proof.Proofs

open Sys2Proof.Machine

/-! ### The opcode byte -/

/-- A row under the full mask selects its own pattern and no other byte (R60). -/
theorem selects_fullMask (i : Instr) (mnemonic : String) (p v : Byte) :
    (OpcodeRow.mk i mnemonic p 0xFF).selects v = decide (v = p) := by
  show (v &&& BitVec.allOnes 8 == p) = decide (v = p)
  rw [BitVec.and_allOnes]
  rfl

/-- Settles O1: every row selects exactly its pattern (`selects_fullMask`), so the search of the table is
a chain of comparisons; each operation's byte is in its row (`decode_encode`). -/
theorem opcodeByteSelectsOperation : Obligations.OpcodeByteSelectsOperation := by
  refine ⟨rfl, fun v => ?map, fun i => ⟨?wellFormed, decode_encode i⟩⟩
  case map =>
    simp only [decode, opcodeTable, List.find?_cons, selects_fullMask, List.find?_nil]
    split_ifs
    case neg => simp only [*, decide_false]
    all_goals subst v; rfl
  case wellFormed => cases i <;> rfl

/-- Settles O2: the decoder evaluated on the eleven bytes. -/
theorem tableBytesDecode : Obligations.TableBytesDecode :=
  ⟨rfl, rfl, rfl, rfl, rfl, rfl, rfl, rfl, rfl, rfl, rfl⟩

/-! ### The values of `RESULT` -/

theorem resultKind_ofCode_code (k : ResultKind) : ResultKind.ofCode k.code = some k := by
  cases k <;> rfl

/-- The values from 0x06 on are reserved (R71). -/
theorem resultKind_ofCode_reserved {v : Byte} (h : 6 ≤ v.toNat) : ResultKind.ofCode v = none := by
  unfold ResultKind.ofCode
  split
  case h_7 => rfl
  all_goals omega

/-- Settles O4: the values as R71 lists them, the search by value, and the register in which a completion
leaves its kind (`memRead_addr`). -/
theorem resultCodesRoundTrip : Obligations.ResultCodesRoundTrip :=
  ⟨rfl, rfl, rfl, rfl, rfl, rfl, resultKind_ofCode_code, fun _ => resultKind_ofCode_reserved,
    fun s k => memRead_addr (s.complete k) .result⟩

end Sys2Proof.Proofs
end

section
/-! The Command Frames of spec/30_encoding.md (R64, R65, R70, R97). -/

namespace Sys2Proof.Proofs

open Sys2Proof.Machine

/-- The builder's nine bytes: the two fixed ones, the command, the parameters and the negated sum of bytes
1..7 (R64, R97). -/
theorem buildCmd_eq (c p0 p1 p2 p3 p4 : Byte) :
    buildCmd c p0 p1 p2 p3 p4 = #v[0xFF, 0x01, c, p0, p1, p2, p3, p4,
      neg8 (sum8 (buildCmd c p0 p1 p2 p3 p4).toList 1 7)] := rfl

theorem sum8_append_checksum (f : Frame9) : sum8 f.toList 1 8 = sum8 f.toList 1 7 + f[8] := by
  have e : span f.toList 1 8 = span f.toList 1 7 ++ [f[8]] := by
    unfold span
    rw [List.take_add_one]
    simp
  unfold sum8
  rw [e, List.sum_append, List.sum_singleton]

/-- Settles O25: the bytes are the builder's own (`buildCmd_eq`); the checksum byte is the last term of the
sum of bytes 1..8 and the negation of the others. -/
theorem builtFrameObeysChecksumLaw : Obligations.BuiltFrameObeysChecksumLaw := by
  intro c p0 p1 p2 p3 p4 f
  have checksum : f[8] = neg8 (sum8 f.toList 1 7) := (cmdChecksum_buildCmd c p0 p1 p2 p3 p4).symm
  refine ⟨rfl, rfl, rfl, rfl, rfl, rfl, rfl, rfl, checksum, ?sumZero, fun h => ?corner⟩
  case sumZero =>
    rw [sum8_append_checksum, checksum]
    exact BitVec.add_right_neg _
  case corner =>
    rw [checksum, h]
    rfl

/-- An issue with `BUSY` = 0 is the operation's own start after the latches (R80). -/
theorem exec_idle {i : Instr} {s t : State} (hb : s.busy = false) (h : exec i s = .next t) :
    t = startOf s.regs i (s.latchIssue i) := by
  rcases exec_cases h with ⟨-, ht⟩ | ⟨hb', -⟩
  · exact ht
  · rw [hb] at hb'
    cases hb'

/-- Settles O26: an issue of an idle block puts the operation's built frame in the transmit buffer
(`exec_idle`), whose bytes are the builder's (`buildCmd_eq`); the three constant frames are evaluated. -/
theorem operationsBuildTheirFrames : Obligations.OperationsBuildTheirFrames := by
  intro s hb g
  refine ⟨?sendCommand, ?queryDust, ?enterSleep, ?exitSleep, ?setUploadMode⟩
  all_goals
    intro t h
    obtain rfl := exec_idle hb h
  case sendCommand => exact ⟨_, buildCmd_eq _ _ _ _ _ _, rfl⟩
  case setUploadMode => exact ⟨_, buildCmd_eq _ _ _ _ _ _, rfl⟩
  case queryDust => rfl
  case enterSleep => rfl
  case exitSleep => rfl

end Sys2Proof.Proofs
end

section
/-! The Telemetry Frame's checksum law of spec/30_encoding.md (R68, R69): sums of a frame's first bytes as
numbers, and the synchronizer's comparison against the law. -/

namespace Sys2Proof.Proofs

open Sys2Proof.Machine

/-- No sum of a Telemetry Frame's bytes wraps (R69). -/
theorem prefixSum_toNat (f : Frame32) {n : Nat} (h : n ≤ 32) :
    (prefixSum f n).toNat = ((f.toList.take n).map BitVec.toNat).sum :=
  (sum_zext16_toNat (f.toList.take n) (by simp [h])).1

/-- A sum from byte 0 is the sum of the frame's first bytes. -/
theorem sum16_zero (f : Frame32) (n : Nat) : sum16 f.toList 0 n = prefixSum f (n + 1) := rfl

theorem prefixSum_all (f : Frame32) : (prefixSum f 32).toNat = (f.toList.map BitVec.toNat).sum := by
  rw [prefixSum_toNat f le_rfl, List.take_of_length_le (by simp)]

/-- Settles O29: the running sum is `runningChecksum_prefixSum`, the numbers are `prefixSum_all`, and the
two comparisons are of the same 16-bit values (`runningChecksumOk_iff`). -/
theorem runningSumEqualsDirectSum : Obligations.RunningSumEqualsDirectSum := by
  intro f
  have direct : runningChecksum (sum16 f.toList 0 31) f = sum16 f.toList 0 29 :=
    runningChecksum_prefixSum f
  refine ⟨direct, prefixSum_all f, ?bound, ?comparison⟩
  case bound =>
    rw [← prefixSum_all]
    exact prefixSum_toNat_le f 32 le_rfl
  case comparison =>
    rw [Bool.eq_iff_iff, runningChecksumOk_iff, direct, telemetryChecksumOk, beq_iff_eq, eq_comm]

theorem telemetryHeaderOk_iff (f : Frame32) : telemetryHeaderOk f = true ↔
    f[0] = 0x42 ∧ f[1] = 0x4D ∧ f[2] = 0x00 ∧ f[3] = 0x1C := by
  simp only [telemetryHeaderOk, Bool.and_eq_true, beq_iff_eq, and_assoc]
  rfl

/-- The checksum law as an equation of numbers (R68). -/
theorem telemetryChecksumOk_iff (f : Frame32) : telemetryChecksumOk f = true ↔
    f[30].toNat * 256 + f[31].toNat = ((f.toList.take 30).map BitVec.toNat).sum := by
  rw [telemetryChecksumOk, beq_iff_eq, ← BitVec.toNat_inj, pair_toNat, sum16_zero,
    prefixSum_toNat f (by decide)]

/-- Settles O30: the header and the checksum law as numbers; the bound on byte 30 is the bound on the sum,
divided by 256. -/
theorem telemetryFrameLaw : Obligations.TelemetryFrameLaw := by
  intro f
  have bound : ((f.toList.take 30).map BitVec.toNat).sum ≤ 7650 := by
    rw [← prefixSum_toNat f (by decide)]
    exact prefixSum_toNat_le f 30 (by decide)
  have law : telemetryValid f = true ↔
      f[0] = 0x42 ∧ f[1] = 0x4D ∧ f[2] = 0x00 ∧ f[3] = 0x1C ∧
      f[30].toNat * 256 + f[31].toNat = ((f.toList.take 30).map BitVec.toNat).sum := by
    rw [telemetryValid, Bool.and_eq_true, telemetryHeaderOk_iff, telemetryChecksumOk_iff]
    simp only [and_assoc]
  refine ⟨law, bound, fun h => ?_⟩
  obtain ⟨-, -, -, -, hsum⟩ := law.mp h
  omega

end Sys2Proof.Proofs
end

section
/-! The evaluation of a query's response, and the assembly of the Dust Reading (spec/30_encoding.md R67;
spec/41_transaction.md R102). -/

namespace Sys2Proof.Proofs

open Sys2Proof.Machine

/-- A completion over changed registers and internal elements is what R84 allows, where of `STATUS` they
change `TBUF_VALID` at most. -/
theorem completedAs_complete (s : State) (g : Regs) (e : Engine) (k : ResultKind)
    (hg : ∀ b < 8, b ≠ TBUF_VALID → bit g.status b = bit s.regs.status b) :
    completedAs k g e (bit g.status TBUF_VALID) s
      (State.complete { s with regs := g, eng := e } k) := by
  refine ⟨rfl, by simp, by simp, by simp [TBUF_VALID], fun b hb h0 h1 h4 => ?_⟩
  simp [hb, h0, h1, hg b hb h4]

/-- `RESP_EVAL` always has its step (R31, R83). -/
theorem engineStep_respEval {s : State} (h : s.eng.fsm = .respEval) :
    engineStep s = respEvalStep s := by
  rw [engineStep_ready s (by simp [engineReady, engineEnabled, h])]
  unfold engineAction
  rw [h]

theorem respEvalStep_valid {s : State} (h : neg8 (sum8 s.eng.rbuf.toList 1 7) = s.eng.rbuf[8]) :
    respEvalStep s = responseDone .checkOk s :=
  congrArg (responseDone · s) (if_pos (beq_iff_eq.mpr h))

theorem respEvalStep_invalid {s : State} (h : neg8 (sum8 s.eng.rbuf.toList 1 7) ≠ s.eng.rbuf[8]) :
    respEvalStep s = responseDone .checksumError s :=
  congrArg (responseDone · s) (if_neg (mt beq_iff_eq.mp h))

/-- The Dust Reading of a response, byte by byte: R67's field order. -/
theorem writeDust_reading (r : Frame9) (s : State) :
    writeDust (dustPM1_0 r) (dustPM2_5 r) (dustPM10 r) s = { s with
      regs.pm1_0H := r[6], regs.pm1_0L := r[7], regs.pm2_5H := r[2], regs.pm2_5L := r[3],
      regs.pm10H := r[4], regs.pm10L := r[5] } := by
  simp [writeDust, dustPM1_0, dustPM2_5, dustPM10]

/-- `QUERY_DUST` with a query reply: the reading (R102). -/
theorem queryDustDone_reading {s : State} (h : s.eng.rbuf[1] = 0x86) :
    queryDustDone .checkOk s = State.complete { s with
      regs.pm1_0H := s.eng.rbuf[6], regs.pm1_0L := s.eng.rbuf[7], regs.pm2_5H := s.eng.rbuf[2],
      regs.pm2_5L := s.eng.rbuf[3], regs.pm10H := s.eng.rbuf[4], regs.pm10L := s.eng.rbuf[5] }
      .checkOk := by
  rw [← writeDust_reading]
  exact if_pos ⟨rfl, h⟩

/-- `QUERY_DUST` with anything else: zeros (R102). -/
theorem queryDustDone_zeros {k : ResultKind} {s : State} (h : ¬ (k = .checkOk ∧ s.eng.rbuf[1] = 0x86)) :
    queryDustDone k s =
      (writeDust 0 0 0 s).complete (if k = .checkOk then .unexpectedReply else k) := if_neg h

theorem responseDone_queryDust {k : ResultKind} {s : State} (h : s.running = some .queryDust) :
    responseDone k s = .next (queryDustDone k (recordResponse k s)) := responseDone_eq h rfl

/-- Settles O36: the three outcomes of the evaluation, a query reply, another valid reply and an invalid
one, each a completion over the registers it names (`completedAs_complete`). -/
theorem queryDustCompletes : Obligations.QueryDustCompletes := by
  intro s hf hi r ok
  have step {t : State} (h : respEvalStep s = .next t) : agentStep .engine s = .next t :=
    (engineStep_respEval hf).trans h
  have completed (k : ResultKind) (g : Regs) (hg : g.status = s.regs.status) :=
    completedAs_complete s g s.eng k (fun b _ _ => congrArg (bit · b) hg)
  by_cases hok : ok
  · have eval := step ((respEvalStep_valid hok).trans (responseDone_queryDust hi))
    by_cases h1 : r[1] = 0x86
    · rw [queryDustDone_reading (s := recordResponse .checkOk s) h1] at eval
      refine ⟨_, eval, fun _ => ?_, fun h => absurd ⟨hok, h1⟩ h⟩
      exact completed .checkOk _ rfl
    · rw [queryDustDone_zeros (s := recordResponse .checkOk s) (fun h => h1 h.2)] at eval
      refine ⟨_, eval, fun h => absurd h.2 h1, fun _ => ?_⟩
      rw [if_pos ⟨h1, hok⟩]
      exact completed .unexpectedReply _ rfl
  · have eval := step ((respEvalStep_invalid hok).trans (responseDone_queryDust hi))
    rw [queryDustDone_zeros (k := .checksumError) (by simp)] at eval
    refine ⟨_, eval, fun h => absurd h.1 hok, fun _ => ?_⟩
    rw [if_neg (fun h => hok h.2)]
    exact completed .checksumError _ rfl

end Sys2Proof.Proofs
end

section
/-! The host program lines of spec/30_encoding.md (R72): one operation of a program as a scheduled turn,
then each line over its turns. -/

namespace Sys2Proof.Proofs

open Sys2Proof.Machine

/-- A run whose next turn is the host program's begins with that step (R72). -/
theorem run_program_turn {t : State} (s : State) (turns : List Turn) (n : Nat)
    (h : programStep (s.withSchedule turns) = .next t) :
    run (n + 1) (s.withSchedule (.program :: turns)) = run n t :=
  run_succ n ((step_cons (s.withSchedule (.program :: turns)) .program turns rfl).trans h)

/-- The write of an operation's byte to `OP` is that operation's issue (R21, R72). -/
theorem programStep_issue (s : State) (i : Instr) (rest : List ProgramOp)
    (h : s.program = .bus (.write 0x00 (encode i)) :: rest) :
    programStep s = exec i (s.withProgram rest) :=
  (programStep_bus s (.write 0x00 (encode i)) rest h).trans (hostWrite_op _ (decode_encode i))

theorem memRead_status_busy (s : State) : bit (s.memRead 0x01) 0 = s.busy := waitIdleAgain_status s

section
variable {s : State} {rest : List ProgramOp}

/-- In a busy block a turn of `WAIT_IDLE` is its read of `STATUS` and nothing else (R72). -/
theorem programStep_waitIdle_busy (h : s.program = .waitIdle :: rest) (hb : s.busy = true) :
    programStep s = .next (s.hostRead 0x01) := by
  rw [programStep_waitIdle s rest h, if_pos hb, ← h]
  rfl

/-- In an idle block a turn of `WAIT_IDLE` is its read of `STATUS`, and the line is over (R72). -/
theorem programStep_waitIdle_idle (h : s.program = .waitIdle :: rest) (hb : s.busy = false) :
    programStep s = .next ((s.withProgram rest).hostRead 0x01) := by
  rw [programStep_waitIdle s rest h, hb]
  rfl

/-- A byte of an `RX` line joins a queue with room (R52, R72). -/
theorem programStep_rx_room {b : Byte} (h : s.program = .rx b :: rest)
    (room : s.rx.length < Config.RX_DEPTH) :
    programStep s = .next { s with rx := s.rx ++ [b], program := rest } :=
  (programStep_rx s b rest h).trans (congrArg _ (if_pos room))

/-- A tick of a `TICK` line counts in a wait that is not saturated (R72, R141). -/
theorem programStep_tick_counts (h : s.program = .tick :: rest)
    (hf : s.eng.fsm = .settle ∨ s.eng.fsm = .rxWait) (hw : s.eng.w < 65536) :
    programStep s = .next { s with eng.w := s.eng.w + 1, program := rest } :=
  (programStep_tick s rest h).trans (congrArg _ (if_pos ⟨hf, hw⟩))

end

section
variable (turns : List Turn) (rest : List ProgramOp)

/-- While the block is busy, `WAIT_IDLE` reads `STATUS` once a turn and stays (R72). -/
theorem run_waitIdle_busy (n : Nat) (s : State) (hb : s.busy = true) :
    run n { s with
      schedule := List.replicate n .program ++ turns, program := .waitIdle :: rest } = .next { s with
        hostLog := s.hostLog ++ List.replicate n ⟨0x01, s.memRead 0x01⟩
        schedule := turns
        program := .waitIdle :: rest } := by
  induction n generalizing s with
  | zero => simp
  | succ n ih =>
    refine (run_program_turn { s with program := .waitIdle :: rest } _ n
      (programStep_waitIdle_busy rfl hb)).trans ?_
    refine (ih { s with hostLog := s.hostLog ++ [⟨0x01, s.memRead 0x01⟩] } hb).trans ?_
    rw [List.append_assoc]
    rfl

/-- An `RX` line that fits appends one byte a turn (R72). -/
theorem run_rx (bytes : List Byte) (s : State) (h : s.rx.length + bytes.length ≤ Config.RX_DEPTH) :
    run bytes.length { s with
      schedule := List.replicate bytes.length .program ++ turns
      program := bytes.map .rx ++ rest } =
        .next { s with rx := s.rx ++ bytes, schedule := turns, program := rest } := by
  induction bytes generalizing s with
  | nil => simp
  | cons b bytes ih =>
    rw [List.length_cons] at h
    have room : s.rx.length < Config.RX_DEPTH := by omega
    refine (run_program_turn { s with program := .rx b :: (bytes.map .rx ++ rest) } _ _
      (programStep_rx_room rfl room)).trans ?_
    refine (ih { s with rx := s.rx ++ [b] } (by simp; omega)).trans ?_
    rw [List.append_assoc]
    rfl

/-- A `TICK` line in a wait counts one tick a turn (R72, R141). -/
theorem run_tick (n : Nat) (s : State) (hf : s.eng.fsm = .settle ∨ s.eng.fsm = .rxWait)
    (hw : s.eng.w + n ≤ 65536) :
    run n { s with
      schedule := List.replicate n .program ++ turns
      program := List.replicate n .tick ++ rest } =
        .next { s with eng.w := s.eng.w + n, schedule := turns, program := rest } := by
  induction n generalizing s with
  | zero => rfl
  | succ n ih =>
    have below : s.eng.w < 65536 := by omega
    refine (run_program_turn { s with program := .tick :: (List.replicate n .tick ++ rest) } _ _
      (programStep_tick_counts rfl hf below)).trans ?_
    refine (ih { s with eng.w := s.eng.w + 1 } hf (by simp; omega)).trans ?_
    rw [show s.eng.w + (n + 1) = s.eng.w + 1 + n by omega]

/-- `SET_TIMEOUT` writes the high byte, then the low byte (R72). -/
theorem run_setTimeout (v : Word16) (s : State) :
    run 2 { s with
      schedule := .program :: .program :: turns
      program := lineOps (.setTimeout v) ++ rest } = .next { s with
        regs.timeoutH := hiByte v, regs.timeoutL := loByte v, schedule := turns, program := rest } := rfl

end

/-- Settles O59: a line of one operation is a step of the program (`programStep_bus`, `programStep_issue`,
`programStep_waitIdle_idle`), and a line of several is a run of its turns. -/
theorem programLinesRunAsSteps : Obligations.ProgramLinesRunAsSteps := by
  intro s turns rest
  refine ⟨?wr, ?rd, ?issue, ?waitBusy, ?waitIdle, ?call, ?setTimeout, ?clearStatus, ?rx, ?tick⟩
  case wr => exact fun r v => programStep_bus _ (.write r.addr v) rest rfl
  case rd => exact fun r _ => ⟨rfl, programStep_bus _ (.read r.addr) rest rfl⟩
  case issue => exact fun i => programStep_issue _ i rest rfl
  case waitBusy =>
    intro n hb
    exact run_waitIdle_busy turns rest n s ((memRead_status_busy s).symm.trans hb)
  case waitIdle =>
    intro hb
    have idle : s.busy = false := (memRead_status_busy s).symm.trans hb
    exact programStep_waitIdle_idle (s := { s with program := .waitIdle :: rest }) rfl idle
  case call => exact fun i => programStep_issue _ i (.waitIdle :: rest) rfl
  case setTimeout =>
    intro v
    exact ⟨_, run_setTimeout turns rest v s, pair_hiByte_loByte v, rfl⟩
  case clearStatus =>
    refine ⟨_, hostWrite_status _ 0x2E, rfl, fun b hb => ?_⟩
    have mask : ∀ b < 8, (decide (b ∈ w1cBits) && bit 0x2E b) = decide (b ∈ [1, 2, 3, 5]) := by decide
    rw [← mask b hb]
    exact bit_statusAfterWrite s.regs.status 0x2E b hb
  case rx => exact fun bytes h => run_rx turns rest bytes s h
  case tick => exact fun n hf hw => run_tick turns rest n s hf hw

end Sys2Proof.Proofs
end

section
/-! The write of `OP` in full (spec/40_common.md R80, R81, R62): what an issue of an idle block does, what a
refused one does, and what both leave alone. -/

namespace Sys2Proof.Proofs

open Sys2Proof.Machine

/-! ### An issue that starts its operation -/

theorem exec_of_idle (i : Instr) {s : State} (hb : s.busy = false) :
    exec i s = .next (startOf s.regs i (s.latchIssue i)) :=
  (exec_eq_issueOp i s).trans (issueOp_idle i _ s hb)

/-- A start after the latches is what R80 allows: `BUSY`, `DONE` and the Engine's own elements. -/
theorem issuedAs_startOf (i : Instr) (s : State) :
    issuedAs (startOf s.regs i (s.latchIssue i)).eng s (startOf s.regs i (s.latchIssue i)) := by
  refine ⟨?_, by simp, by simp, fun b hb h0 h1 => by simp [hb, h0, h1]⟩
  cases i <;> rfl

/-- Settles O13: with `BUSY` = 0 each issue is its operation's own start after the latches (`exec_of_idle`),
whose internal elements are written out in the statement. -/
theorem issueStartsOperation : Obligations.IssueStartsOperation := by
  intro s hb g
  have issue (i : Instr) : ∃ t, exec i s = .next t ∧
      issuedAs (startOf s.regs i (s.latchIssue i)).eng s t :=
    ⟨_, exec_of_idle i hb, issuedAs_startOf i s⟩
  exact ⟨fun v i h => hostWrite_op s h, issue .sendCommand, issue .readResponse, issue .queryDust,
    issue .enterSleep, issue .exitSleep, issue .setUploadMode, issue .syncFrame,
    issue .extractFrame⟩

/-! ### A write of `OP` that starts nothing -/

theorem onlySets_setFlag (s : State) (f : Nat) : onlySets f s (s.setFlag f) :=
  ⟨rfl, fun b hb => bit_setBit s.regs.status f b hb⟩

/-- The bytes 0x00 and 0x09..0xFF name no operation (R62). -/
theorem decode_undefined : ∀ v : Byte, v.toNat = 0 ∨ 9 ≤ v.toNat →
    decode v = .error (.undefinedOpcode v) := by decide

theorem hostWrite_op_undefined (s : State) {v : Byte} {e : DecodeError} (h : decode v = .error e) :
    hostWrite 0x00 v s = .next s.refuseUndefined := by
  show writeOp v s = .next s.refuseUndefined
  unfold writeOp
  rw [h]

/-- While an operation runs, any write of `OP` is refused, whatever its byte (R81). -/
theorem hostWrite_op_busy {s : State} (v : Byte) (hb : s.busy = true) :
    hostWrite 0x00 v s = .next s.refuseBusy := by
  cases hd : decode v with
  | ok i => rw [hostWrite_op s hd, exec_eq_issueOp, issueOp_busy _ _ s hb]
  | error e => rw [hostWrite_op_undefined s hd, refuseUndefined_busy s hb]

/-- Settles O14: both refusals are one `setFlag` (`onlySets_setFlag`), the busy one whatever the byte is
(`hostWrite_op_busy`). -/
theorem refusedOpWriteSetsOneFlag : Obligations.RefusedOpWriteSetsOneFlag := by
  intro s v
  constructor
  · intro hb
    exact ⟨_, hostWrite_op_busy v hb, onlySets_setFlag s OP_WHILE_BUSY⟩
  · intro hb hv
    refine ⟨_, hostWrite_op_undefined s (decode_undefined v hv), ?_⟩
    rw [refuseUndefined_idle s hb]
    exact onlySets_setFlag s ILLEGAL_OP

/-! ### The frame of an issue -/

/-- A change of `STATUS` alone is read at its own address only (R20). -/
theorem memRead_of_status {s t : State} (h : t.regs = { s.regs with status := t.regs.status })
    {a : Byte} (ha : a ≠ 0x01) : t.memRead a = s.memRead a := by
  cases hr : RegName.ofAddr a with
  | none => rw [memRead_unmapped t hr, memRead_unmapped s hr]
  | some r =>
    obtain rfl := addr_of_ofAddr a r hr
    rw [memRead_addr, memRead_addr, h]
    cases r <;> first | rfl | exact absurd rfl ha

/-- An issue, taken or refused, writes no register but `STATUS`, and there the three bits of R80 and R81. -/
theorem exec_regs {i : Instr} {s t : State} (h : exec i s = .next t) :
    t.regs = { s.regs with status := t.regs.status } ∧
    ∀ b < 8, b ≠ BUSY → b ≠ DONE → b ≠ OP_WHILE_BUSY →
      bit t.regs.status b = bit s.regs.status b := by
  rcases exec_cases h with ⟨-, rfl⟩ | ⟨-, rfl⟩
  · exact ⟨by simp, fun b hb h0 h1 _ => by simp [hb, h0, h1]⟩
  · exact ⟨rfl, fun b hb _ _ h3 => by simp [hb, h3]⟩

/-- Settles O15: an issue is a host write, which keeps the transport and the results; of the registers it
changes `STATUS` (`exec_regs`), and no start writes the other internal elements. -/
theorem issueFrame : Obligations.IssueFrame := by
  intro i s t h
  have write : hostWrite 0x00 (encode i) s = .next t := (hostWrite_op s (decode_encode i)).trans h
  obtain ⟨hregs, hbits⟩ := exec_regs h
  refine ⟨hostWrite_sameOutside write, hostWrite_sameResults write,
    fun a ha => memRead_of_status hregs ha, hbits, ?_⟩
  rcases exec_cases h with ⟨-, rfl⟩ | ⟨-, rfl⟩
  · cases i <;> exact ⟨rfl, rfl, rfl, rfl, rfl, rfl, rfl, rfl, rfl⟩
  · exact ⟨rfl, rfl, rfl, rfl, rfl, rfl, rfl, rfl, rfl⟩

/-! ### A running operation -/

/-- The agents but the Engine, Reset and a Host that starts an operation leave the Engine alone, but for the
wait counter that a tick moves. -/
theorem agentStep_eng {a : AgentStep} {s t : State} (h : agentStep a s = .next t)
    (hb : s.busy = true) (he : a ≠ .engine) (hr : a ≠ .reset) :
    { t.eng with w := s.eng.w } = s.eng := by
  cases a with
  | hostRead addr => cases h; rfl
  | hostWrite addr v =>
    rcases hostWrite_eng h with e | ⟨-, i, -, hidle, -⟩
    · rw [e]
    · rw [hb] at hidle
      cases hidle
  | engine => exact absurd rfl he
  | rxProduce b => cases h; simp
  | txDrain => cases h; simp
  | tick => cases h; rcases tick_cases s with ⟨-, -, e⟩ | e <;> rw [e]
  | reset => exact absurd rfl hr

/-- Settles O17: only a reset or a completion clears `BUSY` (O60), and no other agent touches the Engine of a
running operation (`agentStep_eng`). -/
theorem runningOperationIsNotCancelled : Obligations.RunningOperationIsNotCancelled := by
  intro a s t h hb he hr
  obtain ⟨-, hclear, -⟩ := statusAndOperandWriters a s t h
  refine ⟨?_, agentStep_eng h hb he hr⟩
  by_contra ht
  rcases hclear ⟨hb, Bool.eq_false_iff.mpr ht⟩ with e | ⟨e, -⟩
  · exact hr e
  · exact he e

end Sys2Proof.Proofs
end

section
/-! The Engine's turn in the states of a transmission and of a response read, state by state
(spec/40_common.md R83, R88 to R92). -/

namespace Sys2Proof.Proofs

open Sys2Proof.Machine

/-! ### The turn of an enabled state -/

section
variable {s : State}

/-- `RX_CLEAR` always has its step (R31, R83). -/
theorem engineStep_rxClear (h : s.eng.fsm = .rxClear) :
    engineStep s = .next { s with rx := [], eng.txidx := 0, eng.fsm := .txPush } := by
  rw [engineStep_ready s (by simp [engineReady, engineEnabled, h])]
  unfold engineAction
  rw [h]
  rfl

/-- `TX_PUSH` with room appends the frame byte at its index (R83, R90). -/
theorem engineStep_txPush (h : s.eng.fsm = .txPush) (room : s.tx.length < Config.TX_DEPTH)
    (hi : s.eng.txidx < 9) : engineStep s = .next { s with
      tx := s.tx ++ [s.eng.txbuf[s.eng.txidx]]
      eng.txidx := s.eng.txidx + 1
      eng.fsm := if s.eng.txidx = 8 then .txFlush else .txPush } := by
  rw [engineStep_ready s ((engineReady_txPush s h).trans (decide_eq_true room))]
  unfold engineAction txPushStep
  rw [h, Vector.getElem?_eq_getElem hi]
  simp [State.txPush, Config.CMD_LEN]

theorem engineReady_txPush_full (h : s.eng.fsm = .txPush) (full : Config.TX_DEPTH ≤ s.tx.length) :
    engineReady s = false :=
  (engineReady_txPush s h).trans (decide_eq_false (Nat.not_lt.mpr full))

theorem engineReady_txFlush_pending (h : s.eng.fsm = .txFlush) (ht : s.tx ≠ []) :
    engineReady s = false := by simpa [engineReady_txFlush s h] using ht

theorem engineStep_txFlush (h : s.eng.fsm = .txFlush) (ht : s.tx = []) :
    engineStep s = txFlushStep s := by
  rw [engineStep_ready s (by simp [engineReady_txFlush s h, ht])]
  unfold engineAction
  rw [h]

/-- After the flush a send-only operation is complete (R83, R100, R105). -/
theorem txFlushStep_sent (h : s.running = some .sendCommand ∨ s.running = some .setUploadMode) :
    txFlushStep s = .next (s.complete .checkOk) := by
  unfold txFlushStep
  rcases h with h | h <;> rw [h]

/-- After the flush the query reads (R83, R102). -/
theorem txFlushStep_query (h : s.running = some .queryDust) :
    txFlushStep s = .next (startReceive s) := by
  unfold txFlushStep
  rw [h]

/-- After the flush a sleep or wake settles (R83, R103, R104). -/
theorem txFlushStep_sleep (h : s.running = some .enterSleep ∨ s.running = some .exitSleep) :
    txFlushStep s = .next { s with eng.w := 0, eng.fsm := .settle } := by
  unfold txFlushStep
  rcases h with h | h <;> rw [h]

/-- `RX_WAIT` with a byte takes it, whatever the wait counter says (R83, R92, R145). -/
theorem engineStep_rxWait_byte {b : Byte} {rest : List Byte} (h : s.eng.fsm = .rxWait)
    (hr : s.rx = b :: rest) (hi : s.eng.rxidx < 9) : engineStep s = .next { s with
      rx := rest
      eng.rbuf := s.eng.rbuf.set s.eng.rxidx b
      eng.rxidx := s.eng.rxidx + 1
      eng.w := 0
      eng.fsm := if s.eng.rxidx = 8 then .respEval else .rxWait } := by
  rw [engineStep_ready s (by simp [engineReady_rxWait s h, State.rxCount, hr])]
  unfold engineAction rxWaitStep
  rw [h, hr]
  simp [hi, receiveByte, Config.RSP_LEN]

end

/-! ### The transmission -/

/-- Settles O18: the discard is the whole step of `RX_CLEAR`, and a byte produced after it finds room in
the empty queue (O22). -/
theorem rxClearDiscardsStaleBytes : Obligations.RxClearDiscardsStaleBytes := by
  intro s hf
  have clear := engineStep_rxClear hf
  refine ⟨clear, fun t b h => ?_⟩
  cases clear.symm.trans h
  obtain ⟨produce, -⟩ := transportAgentsMoveBytes
  exact produce _ b (Nat.zero_lt_succ _)

/-- Settles O19: the push with room (`engineStep_txPush`), and the hold of a state that is not enabled. -/
theorem txPushAppendsOrHolds : Obligations.TxPushAppendsOrHolds := by
  intro s i hf hidx
  constructor
  · intro room
    have push := engineStep_txPush hf room (hidx ▸ i.isLt)
    simp only [hidx] at push
    exact push
  · intro full
    exact engineStep_hold s (engineReady_txPush_full hf full)

/-- Settles O20: with bytes in the queue the state is not enabled; with none the running operation chooses
among the three continuations. -/
theorem flushWaitsForEmptyQueue : Obligations.FlushWaitsForEmptyQueue := by
  intro s hf
  have flush (ht : s.tx = []) : agentStep .engine s = txFlushStep s := engineStep_txFlush hf ht
  refine ⟨?holds, ?sent, ?query, ?sleep⟩
  case holds => exact fun ht => engineStep_hold s (engineReady_txFlush_pending hf ht)
  case sent =>
    exact fun ht hop => ⟨_, (flush ht).trans (txFlushStep_sent hop),
      completedAs_complete s s.regs s.eng .checkOk fun _ _ _ => rfl⟩
  case query => exact fun ht hop => (flush ht).trans (txFlushStep_query hop)
  case sleep => exact fun ht hop => (flush ht).trans (txFlushStep_sleep hop)

/-! ### The pops of the RX queue -/

/-- Settles O21: the two cases of the pop, the second a flag over the counted draw. -/
theorem popOfEmptyQueueIsADraw : Obligations.PopOfEmptyQueueIsADraw := by
  constructor
  · exact rxPopNB_cons
  · intro s h
    exact ⟨_, rxPopNB_nil s h, h, onlySets_setFlag { s with draws := s.draws + 1 } RX_UNDERFLOW⟩

/-- Settles O31: the step of `RX_WAIT` with a byte available asks nothing of the wait counter. -/
theorem readerTakesAvailableByte : Obligations.ReaderTakesAvailableByte := by
  intro s b rest i hf hr hidx
  have receive := engineStep_rxWait_byte hf hr (hidx ▸ i.isLt)
  simp only [hidx] at receive
  exact receive

end Sys2Proof.Proofs
end

section
/-! The Engine's two waits (spec/40_common.md R83, R92, R93; spec/60_exceptions.md R141, R142): how long each
holds under any order of ticks and Engine turns, and how each ends. -/

namespace Sys2Proof.Proofs

open Sys2Proof.Machine

/-! ### Ticks and Engine turns in a wait -/

/-- A run whose next turn is an agent's begins with that agent's step. -/
theorem run_agent_turn {t : State} (s : State) (a : AgentStep) (turns : List Turn) (n : Nat)
    (h : agentStep a (s.withSchedule turns) = .next t) :
    run (n + 1) (s.withSchedule (.agent a :: turns)) = run n t :=
  run_succ n ((step_cons (s.withSchedule (.agent a :: turns)) (.agent a) turns rfl).trans h)

/-- A tick counts in a wait that is not saturated (R141). -/
theorem agentStep_tick_counts {s : State} (hf : s.eng.fsm = .settle ∨ s.eng.fsm = .rxWait)
    (hw : s.eng.w < 65536) : agentStep .tick s = .next { s with eng.w := s.eng.w + 1 } :=
  congrArg _ (if_pos ⟨hf, hw⟩)

/-- While a wait is not over, ticks and Engine turns in any order count the ticks and do nothing else: the
Engine holds at every count up to `m` (R82, R141). -/
theorem run_waiting (rest : List Turn) {m : Nat} (hm : m ≤ 65536) (l : List AgentStep) (s : State)
    (hf : s.eng.fsm = .settle ∨ s.eng.fsm = .rxWait) (hl : ∀ a ∈ l, a = .tick ∨ a = .engine)
    (holds : ∀ (w : Nat) (turns : List Turn), w ≤ m →
      engineReady { s with eng.w := w, schedule := turns } = false)
    (hw : s.eng.w + l.count .tick ≤ m) :
    run l.length { s with schedule := l.map .agent ++ rest } =
      .next { s with eng.w := s.eng.w + l.count .tick, schedule := rest } := by
  induction l generalizing s with
  | nil => rfl
  | cons a l ih =>
    have hl' : ∀ a ∈ l, a = .tick ∨ a = .engine := fun b hb => hl b (List.mem_cons_of_mem a hb)
    rcases hl a List.mem_cons_self with rfl | rfl
    · rw [List.count_cons_self] at hw ⊢
      have below : s.eng.w < 65536 := by omega
      refine (run_agent_turn s .tick (l.map Turn.agent ++ rest) _
        (agentStep_tick_counts hf below)).trans ?_
      refine (ih { s with eng.w := s.eng.w + 1 } hf hl' holds (by simp; omega)).trans ?_
      rw [show s.eng.w + (l.count .tick + 1) = s.eng.w + 1 + l.count .tick by omega]
    · rw [List.count_cons_of_ne (by decide)] at hw ⊢
      have hold : agentStep .engine (s.withSchedule (l.map Turn.agent ++ rest)) = .next _ :=
        engineStep_hold _ (holds s.eng.w _ (by omega))
      exact (run_agent_turn s .engine _ _ hold).trans (ih s hf hl' holds hw)

/-! ### The settle delay -/

section
variable {s : State} {n : Nat}

theorem settleTicks_of_running
    (h : (s.running = some .enterSleep ∧ n = 20) ∨ (s.running = some .exitSleep ∧ n = 45)) :
    settleTicks s = some n := by
  unfold settleTicks
  rcases h with ⟨h, rfl⟩ | ⟨h, rfl⟩ <;> rw [h] <;> rfl

theorem engineReady_settle_early (hf : s.eng.fsm = .settle) (hn : settleTicks s = some n)
    (hw : s.eng.w < n) : engineReady s = false :=
  (engineReady_settle s n hf hn).trans (decide_eq_false (Nat.not_le.mpr hw))

/-- Once the delay is over the read begins (R83, R93). -/
theorem engineStep_settled (hf : s.eng.fsm = .settle) (hn : settleTicks s = some n)
    (hw : n ≤ s.eng.w) : engineStep s = .next (startReceive s) := by
  rw [engineStep_ready s ((engineReady_settle s n hf hn).trans (decide_eq_true hw))]
  unfold engineAction settleStep
  rw [hf, hn]

end

/-- Settles O34: below its count the delay's state is not enabled, whatever turns come (`run_waiting`); from
the count on the read begins; and a producer does not ask for the Engine's state (O22). -/
theorem settleDelayLastsItsTicks : Obligations.SettleDelayLastsItsTicks := by
  intro s n hf hop
  have ticks : settleTicks s = some n := settleTicks_of_running hop
  refine ⟨?holds, ?ends, ?run, ?produce⟩
  case holds => exact fun hw => engineStep_hold s (engineReady_settle_early hf ticks hw)
  case ends => exact fun hw => engineStep_settled hf ticks hw
  case run =>
    intro l rest h0 hl hc
    have bound : n ≤ 65536 := by omega
    have run := run_waiting rest (m := n - 1) (by omega) l s (.inl hf) hl
      (fun w turns hw => engineReady_settle_early (n := n) hf ticks (by simp; omega))
      (by omega)
    rw [h0, Nat.zero_add] at run
    exact run
  case produce => exact fun b room => transportAgentsMoveBytes.1 s b room

/-! ### The wait for a response byte -/

section
variable {s : State}

theorem engineReady_rxWait_early (hf : s.eng.fsm = .rxWait) (hr : s.rx = [])
    (hw : s.eng.w ≤ s.eng.t.toNat) : engineReady s = false := by
  rw [engineReady_rxWait s hf]
  simp [State.rxCount, hr, hw]

theorem engineStep_rxWait_expired (hf : s.eng.fsm = .rxWait) (hr : s.rx = [])
    (hw : s.eng.t.toNat < s.eng.w) : engineStep s = responseDone .timeoutError s := by
  rw [engineStep_ready s (by simp [engineReady_rxWait s hf, hw])]
  unfold engineAction rxWaitStep
  rw [hf, hr]

end

theorem doneOf_of_readsResponse {i : Instr} (h : readsResponse i = true) (k : ResultKind)
    (s : State) : ∃ t, doneOf k s i = some t := by
  cases i <;> first | exact ⟨_, rfl⟩ | cases h

/-- What an operation that ends with `RESP` recorded may change, given the kind its `RESULT` names (R84,
R92). -/
theorem completedAs_of_doneOf {k k' : ResultKind} {s t : State} {i : Instr}
    (h : doneOf k (recordResponse k s) i = some t) (hk : t.regs.result = k'.code) :
    completedAs k' t.regs s.eng (bit s.regs.status TBUF_VALID) s t := by
  obtain ⟨j, g, rfl, hst, -⟩ := doneOf_complete h
  obtain rfl : j = k' := (code_eq_iff j k').mp hk
  have done := completedAs_complete s g s.eng j fun b _ _ => congrArg (bit · b) hst
  rw [hst] at done
  exact done

/-- Settles O32: up to `T` ticks the wait is not enabled; beyond it the operation ends with `TimeoutError`
(`doneOf_timeoutError_result`), with `RESP` recorded as zeros, zeros in the query's PM registers, and no
operand register touched. -/
theorem readerTimesOut : Obligations.ReaderTimesOut := by
  intro s i hf hr hop hreads
  constructor
  · exact fun hw => engineStep_hold s (engineReady_rxWait_early hf hr hw)
  · intro hw
    obtain ⟨t, hd⟩ := doneOf_of_readsResponse hreads .timeoutError (recordResponse .timeoutError s)
    have step : engineStep s = .next t :=
      (engineStep_rxWait_expired hf hr hw).trans (responseDone_eq hop hd)
    have result : t.regs.result = 0x02 := doneOf_timeoutError_result hd
    obtain ⟨-, hresp, hout⟩ := doneOf_resp hd
    refine ⟨t, step, completedAs_of_doneOf hd result, hresp, hout, ?query, ?others, ?operands⟩
    case query =>
      rintro rfl
      cases hd
      exact ⟨rfl, rfl, rfl, rfl, rfl, rfl⟩
    case others =>
      intro hne
      rcases doneOf_pm hd with hpm | ⟨e, -⟩
      · exact hpm
      · exact absurd e hne
    case operands =>
      intro a h3 hB
      obtain ⟨r, -, hrw, hread⟩ := memRead_operand h3 hB
      rw [hread, hread]
      exact read_eq_of_operands (engineStep_operands step) hrw

end Sys2Proof.Proofs
end

section
/-! The transmission of a Command Frame from its issue to the end of its flush, by the eager schedule
(spec/40_common.md R83, R86, R90, R91; spec/20_memory.md R53, R54; log entry 3): the Engine's pushes and the
TX drain's steps until both are done. -/

namespace Sys2Proof.Proofs

open Sys2Proof.Machine

/-! ### One step with an empty schedule -/

section
variable {s t : State}

/-- With an empty schedule an enabled Engine moves first (D43). -/
theorem step_of_engineStep (h : s.schedule = []) (hr : engineReady s = true)
    (he : engineStep s = .next t) : step s = .next t := (step_engine s h hr).trans he

/-- With an empty schedule and an Engine that holds, a pending byte is transmitted (D43). -/
theorem step_drains {b : Byte} {rest : List Byte} (h : s.schedule = [])
    (hr : engineReady s = false) (ht : s.tx = b :: rest) :
    step s = .next { s with tx := rest, txlog := s.txlog ++ [b] } := by
  rw [step_drain s h hr (by simp [ht]), txDrain_cons s b rest ht]

end

/-! ### The flush -/

/-- In `TX_FLUSH` the drain empties the TX queue, one byte a step. -/
theorem run_flush (q : List Byte) (s : State) (h : s.schedule = []) (hf : s.eng.fsm = .txFlush)
    (ht : s.tx = q) : run q.length s = .next { s with tx := [], txlog := s.txlog ++ q } := by
  induction q generalizing s with
  | nil =>
    rw [List.append_nil]
    show Host.Outcome.next s = _
    rw [← ht]
  | cons b q ih =>
    have hold : engineReady s = false := engineReady_txFlush_pending hf (by simp [ht])
    rw [List.length_cons, run_succ _ (step_drains h hold ht)]
    refine (ih { s with tx := q, txlog := s.txlog ++ [b] } h hf rfl).trans ?_
    rw [List.append_assoc]
    rfl

/-! ### The push -/

/-- The state at the end of a transmission: the waiting bytes and what was left of the frame are on the wire,
and `TX_FLUSH` is enabled. -/
def transmitted (s : State) : State :=
  { s with
    tx := []
    txlog := s.txlog ++ s.tx ++ s.eng.txbuf.toList.drop s.eng.txidx
    eng.txidx := 9
    eng.fsm := .txFlush }

/-- From `TX_PUSH`, every byte of the frame that is left is pushed once and drained once, and every waiting
byte is drained once. The Engine pushes while there is room and the drain makes room when there is none. -/
theorem run_push (n : Nat) (s : State) (h : s.schedule = []) (hf : s.eng.fsm = .txPush)
    (hi : s.eng.txidx < 9) (hn : n = 2 * (9 - s.eng.txidx) + s.tx.length) :
    run n s = .next (transmitted s) := by
  induction n generalizing s with
  | zero => omega
  | succ n ih =>
    by_cases room : s.tx.length < Config.TX_DEPTH
    · have push := step_of_engineStep h ((engineReady_txPush s hf).trans (decide_eq_true room))
        (engineStep_txPush hf room hi)
      have frame : s.eng.txbuf.toList.drop s.eng.txidx =
          s.eng.txbuf[s.eng.txidx] :: s.eng.txbuf.toList.drop (s.eng.txidx + 1) := by
        rw [List.drop_eq_getElem_cons (by simpa using hi), Vector.getElem_toList]
      rw [run_succ n push]
      split
      next last =>
        have empty : s.eng.txbuf.toList.drop (s.eng.txidx + 1) = [] :=
          List.drop_eq_nil_of_le (by simp; omega)
        obtain rfl : n = (s.tx ++ [s.eng.txbuf[s.eng.txidx]]).length := by simp; omega
        refine (run_flush _ { s with
          tx := s.tx ++ [s.eng.txbuf[s.eng.txidx]], eng.txidx := s.eng.txidx + 1
          eng.fsm := .txFlush } h rfl rfl).trans ?_
        simp [transmitted, frame, empty]
        exact last
      next more =>
        refine (ih { s with
          tx := s.tx ++ [s.eng.txbuf[s.eng.txidx]], eng.txidx := s.eng.txidx + 1
          eng.fsm := .txPush } h rfl (by simp; omega) (by simp; omega)).trans ?_
        simp [transmitted, frame]
    · have depth : 0 < Config.TX_DEPTH := Nat.zero_lt_succ _
      have hold := engineReady_txPush_full hf (Nat.not_lt.mp room)
      obtain ⟨b, q, ht⟩ : ∃ b q, s.tx = b :: q :=
        List.exists_cons_of_length_pos (by omega)
      rw [ht, List.length_cons] at hn
      rw [run_succ n (step_drains h hold ht)]
      refine (ih { s with tx := q, txlog := s.txlog ++ [b] } h hf hi (by simp; omega)).trans ?_
      simp [transmitted, ht]

/-! ### From the issue to the end of the flush -/

/-- The operations that send a frame start with the frame of R70 and the discard of stale bytes (R80). -/
theorem startOf_sending {g : Regs} {i : Instr} {f : Frame9}
    (h : (i = .sendCommand ∧ f = sendCommandFrame g) ∨ (i = .queryDust ∧ f = queryDustFrame) ∨
      (i = .enterSleep ∧ f = enterSleepFrame) ∨ (i = .exitSleep ∧ f = exitSleepFrame) ∨
      (i = .setUploadMode ∧ f = setUploadModeFrame g)) : startOf g i = startTransmit f := by
  rcases h with ⟨rfl, rfl⟩ | ⟨rfl, rfl⟩ | ⟨rfl, rfl⟩ | ⟨rfl, rfl⟩ | ⟨rfl, rfl⟩ <;> rfl

/-- The state in which the frame of an issue is on the wire and the flush is enabled. -/
def flushed (s : State) (i : Instr) (f : Frame9) : State :=
  { startTransmit f (s.latchIssue i) with
    rx := []
    tx := []
    txlog := s.txlog ++ s.tx ++ f.toList
    eng.txidx := 9
    eng.fsm := .txFlush }

/-- The discard, the pushes and the drains of a started transmission. -/
theorem run_transmission {s : State} (h : s.schedule = []) (i : Instr) (f : Frame9) :
    run (19 + s.tx.length) (startTransmit f (s.latchIssue i)) = .next (flushed s i f) := by
  have clear := step_of_engineStep (s := startTransmit f (s.latchIssue i)) h rfl
    (engineStep_rxClear rfl)
  rw [show 19 + s.tx.length = (18 + s.tx.length) + 1 by omega, run_succ _ clear]
  refine (run_push _ { startTransmit f (s.latchIssue i) with
    rx := [], eng.txidx := 0, eng.fsm := .txPush } h rfl (Nat.zero_lt_succ 8) rfl).trans ?_
  rfl

/-- Settles O38: from the issue to the enabled flush by `run_transmission`, and one step more for the flush,
in which each operation goes on in its own way (O20). -/
theorem issuedFrameIsTransmitted : Obligations.IssuedFrameIsTransmitted := by
  intro s i f hb h hsend
  have issue := exec_of_idle i hb
  rw [startOf_sending hsend] at issue
  have finish {t : State} (he : txFlushStep (flushed s i f) = .next t) :
      run (20 + s.tx.length) (startTransmit f (s.latchIssue i)) = .next t := by
    have last : step (flushed s i f) = .next t :=
      step_of_engineStep h rfl ((engineStep_txFlush rfl rfl).trans he)
    rw [show 20 + s.tx.length = (19 + s.tx.length) + 1 by omega,
      run_add _ 1 (run_transmission h i f), run_succ 0 last, run_zero]
  have running : (flushed s i f).running = some i := running_of_op _ i rfl
  have busy : bit (flushed s i f).regs.status BUSY = true := by simp [flushed]
  have continues : (i = .sendCommand ∨ i = .setUploadMode) ∨ i = .queryDust ∨
      (i = .enterSleep ∨ i = .exitSleep) := by
    rcases hsend with ⟨e, -⟩ | ⟨e, -⟩ | ⟨e, -⟩ | ⟨e, -⟩ | ⟨e, -⟩ <;> simp [e]
  rcases continues with hop | rfl | hop
  · refine ⟨_, _, issue, finish (txFlushStep_sent (by simpa [running] using hop)), rfl, rfl, rfl,
      fun _ => ⟨rfl, rfl, by simp [State.busy], by simp⟩, fun e => ?_, fun e => ?_, running, rfl⟩
    · rcases hop with rfl | rfl <;> cases e
    · rcases hop with rfl | rfl <;> simp at e
  · exact ⟨_, _, issue, finish (txFlushStep_query running), rfl, rfl, rfl, nofun,
      fun _ => ⟨rfl, rfl, rfl, busy⟩, nofun, running, rfl⟩
  · refine ⟨_, _, issue, finish (txFlushStep_sleep (by simpa [running] using hop)), rfl, rfl, rfl,
      fun e => ?_, fun e => ?_, fun _ => ⟨rfl, rfl, busy⟩, running, rfl⟩
    · rcases hop with rfl | rfl <;> simp at e
    · rcases hop with rfl | rfl <;> cases e

end Sys2Proof.Proofs
end

section
/-! The response of a reading operation with its nine bytes waiting, by the eager schedule
(spec/40_common.md R83, R92; spec/41_transaction.md R101 to R104; log entry 3). -/

namespace Sys2Proof.Proofs

open Sys2Proof.Machine

/-! ### The nine bytes -/

/-- The first `n` bytes of a response buffer are those of `r`. -/
def receivedUpTo (buf r : Frame9) (n : Nat) : Prop := ∀ (j : Nat) (hj : j < 9), j < n → buf[j] = r[j]

theorem receivedUpTo_set_succ {buf r : Frame9} {n : Nat} (h : receivedUpTo buf r n) (hn : n < 9) :
    receivedUpTo (buf.set n r[n]) r (n + 1) := by
  intro j hj hlt
  by_cases e : n = j
  · subst e
    exact Vector.getElem_set_self ..
  · rw [Vector.getElem_set_ne _ _ e]
    exact h j hj (by omega)

theorem eq_of_receivedUpTo {buf r : Frame9} (h : receivedUpTo buf r 9) : buf = r :=
  Vector.ext fun j hj => h j hj hj

/-- With the rest of a response waiting, the reader takes one byte a step and stops at its last. -/
theorem run_receive (r : Frame9) (rest : List Byte) (n : Nat) (s : State) (h : s.schedule = [])
    (hf : s.eng.fsm = .rxWait) (hi : s.eng.rxidx < 9) (hn : n = 9 - s.eng.rxidx)
    (hr : s.rx = r.toList.drop s.eng.rxidx ++ rest)
    (hbuf : receivedUpTo s.eng.rbuf r s.eng.rxidx) :
    run n s = .next { s with
      rx := rest, eng.rbuf := r, eng.rxidx := 9, eng.w := 0, eng.fsm := .respEval } := by
  induction n generalizing s with
  | zero => omega
  | succ n ih =>
    have head : s.rx = r[s.eng.rxidx] :: (r.toList.drop (s.eng.rxidx + 1) ++ rest) := by
      rw [hr, List.drop_eq_getElem_cons (by simpa using hi), Vector.getElem_toList, List.cons_append]
    have ready : engineReady s = true := by
      rw [engineReady_rxWait s hf]
      simp [State.rxCount, head]
    have buf := receivedUpTo_set_succ hbuf hi
    rw [run_succ n (step_of_engineStep h ready (engineStep_rxWait_byte hf head hi))]
    split
    next last =>
      obtain rfl : n = 0 := by omega
      have nine : s.eng.rxidx + 1 = 9 := by omega
      have whole := eq_of_receivedUpTo (nine ▸ buf)
      have empty : r.toList.drop (s.eng.rxidx + 1) = [] := List.drop_eq_nil_of_le (by simp [nine])
      rw [run_zero, whole, empty, nine]
      rfl
    next more =>
      exact ih { s with
        rx := r.toList.drop (s.eng.rxidx + 1) ++ rest
        eng.rbuf := s.eng.rbuf.set s.eng.rxidx r[s.eng.rxidx]
        eng.rxidx := s.eng.rxidx + 1, eng.w := 0, eng.fsm := .rxWait }
        h rfl (by simp; omega) (by simp; omega) rfl buf

/-! ### The evaluation -/

/-- The kind that the checksum law gives to a received response (R83). -/
def readerKind (r : Frame9) : ResultKind := if responseValid r then .checkOk else .checksumError

theorem respEvalStep_eq (s : State) : respEvalStep s = responseDone (readerKind s.eng.rbuf) s := rfl

theorem echoDone_result (param : Byte) (s : State) :
    (echoDone param .checkOk s).regs.result =
      (if s.eng.rbuf[2] = param then ResultKind.checkOk else .commandRejected).code := by
  unfold echoDone
  by_cases h : s.eng.rbuf[2] = param <;> simp [h]

/-- A query's own kinds: a valid reply to another command is unexpected (R102). -/
theorem queryDustDone_result (s : State) :
    (queryDustDone .checkOk s).regs.result =
      (if s.eng.rbuf[1] = 0x86 then ResultKind.checkOk else .unexpectedReply).code := by
  by_cases h : s.eng.rbuf[1] = 0x86
  · rw [queryDustDone_reading h, if_pos h]
    rfl
  · rw [queryDustDone_zeros (fun e => h e.2), if_neg h]
    rfl

/-- The kind an operation makes of the reader's is the one its rule gives for the received bytes (R101 to
R104). -/
theorem doneOf_result {s t : State} {i : Instr} (h : doneOf (readerKind s.eng.rbuf) s i = some t) :
    t.regs.result = (responseKind i s.eng.rbuf).code := by
  unfold responseKind
  by_cases hv : neg8 (sum8 s.eng.rbuf.toList 1 7) = s.eng.rbuf[8]
  · have kind : readerKind s.eng.rbuf = .checkOk := if_pos (beq_iff_eq.mpr hv)
    rw [kind] at h
    rw [if_neg (not_not.mpr hv)]
    cases i with
    | readResponse => cases h; rfl
    | queryDust => cases h; exact queryDustDone_result s
    | enterSleep => cases h; exact echoDone_result 0x01 s
    | exitSleep => cases h; exact echoDone_result 0x00 s
    | sendCommand | setUploadMode | syncFrame | extractFrame => cases h
  · have kind : readerKind s.eng.rbuf = .checksumError := if_neg (mt beq_iff_eq.mp hv)
    rw [kind] at h
    rw [if_pos hv]
    rcases doneOf_cases h with ⟨-, rfl⟩ | ⟨-, rfl | ⟨e, -⟩⟩
    · rw [queryDustDone_zeros (by simp)]
      rfl
    · rfl
    · cases e

/-- The PM registers after a query: the reading with `CheckOk`, zeros with any other kind (R102). -/
theorem queryDustDone_holdsPM {k j : ResultKind} {s : State}
    (h : (queryDustDone k s).regs.result = j.code) :
    (j = .checkOk → holdsPM (queryDustDone k s) s.eng.rbuf[6] s.eng.rbuf[7] s.eng.rbuf[2]
      s.eng.rbuf[3] s.eng.rbuf[4] s.eng.rbuf[5]) ∧
    (j ≠ .checkOk → holdsPM (queryDustDone k s) 0 0 0 0 0 0) := by
  have zero : j.code = 0x00 ↔ j = .checkOk := code_eq_iff j .checkOk
  rcases queryDustDone_pm k s with ⟨hz, -, hpm⟩ | ⟨hne, hpm⟩
  · exact ⟨fun _ => hpm, fun hj => absurd (zero.mp (h ▸ hz)) hj⟩
  · exact ⟨fun hj => absurd (h.trans (zero.mpr hj)) hne, fun _ => hpm⟩

/-- The whole of an evaluation: a completion with the kind of the operation's rule, `RESP` the received bytes,
and the PM registers written by the query only. -/
theorem engineStep_evaluated {s : State} {i : Instr} (hf : s.eng.fsm = .respEval)
    (hop : s.running = some i) (hreads : readsResponse i = true) :
    ∃ t, engineStep s = .next t ∧
      completedAs (responseKind i s.eng.rbuf) t.regs s.eng (bit s.regs.status TBUF_VALID) s t ∧
      t.regs.result = (responseKind i s.eng.rbuf).code ∧ t.regs.resp = s.eng.rbuf ∧
      (i ≠ .queryDust → samePM s t) ∧
      (i = .queryDust → responseKind i s.eng.rbuf = .checkOk → holdsPM t s.eng.rbuf[6]
        s.eng.rbuf[7] s.eng.rbuf[2] s.eng.rbuf[3] s.eng.rbuf[4] s.eng.rbuf[5]) ∧
      (i = .queryDust → responseKind i s.eng.rbuf ≠ .checkOk → holdsPM t 0 0 0 0 0 0) := by
  obtain ⟨t, hd⟩ := doneOf_of_readsResponse hreads (readerKind s.eng.rbuf)
    (recordResponse (readerKind s.eng.rbuf) s)
  have result : t.regs.result = (responseKind i s.eng.rbuf).code :=
    doneOf_result (s := recordResponse (readerKind s.eng.rbuf) s) hd
  have received : readerKind s.eng.rbuf ≠ .timeoutError := by unfold readerKind; split <;> decide
  obtain ⟨-, hresp, -⟩ := doneOf_resp hd
  rw [if_neg received] at hresp
  refine ⟨t, (engineStep_respEval hf).trans (responseDone_eq hop hd),
    completedAs_of_doneOf hd result, result, hresp, ?others, ?reading, ?zeros⟩
  case others =>
    intro hne
    rcases doneOf_pm hd with hpm | ⟨e, -⟩
    · exact hpm
    · exact absurd e hne
  all_goals
    rintro rfl
    cases hd
  case reading => exact (queryDustDone_holdsPM result).1
  case zeros => exact (queryDustDone_holdsPM result).2

/-! ### The read -/

/-- The state in which the nine bytes `r` have been read and `rest` is left in the queue. -/
def received (s : State) (r : Frame9) (rest : List Byte) : State :=
  { s with rx := rest, eng.rbuf := r, eng.rxidx := 9, eng.w := 0, eng.fsm := .respEval }

/-- Settles O39: the nine bytes by `run_receive`, then the evaluation (`engineStep_evaluated`), a completion
that leaves the transport and the telemetry buffer alone. -/
theorem waitingResponseIsRead : Obligations.WaitingResponseIsRead := by
  intro s i r rest h hf h0 hr hop hreads
  have receive : run 9 s = .next (received s r rest) :=
    run_receive r rest 9 s h hf (by omega) (by omega) (by simpa [h0] using hr)
      (fun j hj hlt => by omega)
  obtain ⟨t, eval, ⟨whole, busy, done, -⟩, result, resp, others, reading, zeros⟩ :=
    engineStep_evaluated (s := received s r rest) rfl hop hreads
  have last : step (received s r rest) = .next t := step_of_engineStep h rfl eval
  refine ⟨t, ?run, congrArg (·.rx) whole, resp, result, congrArg (·.eng.fsm) whole, busy, done,
    others, reading, zeros, congrArg (·.tx) whole, congrArg (·.txlog) whole,
    congrArg (·.eng.tbuf) whole⟩
  case run => rw [run_add 9 1 receive, run_succ 0 last, run_zero]

end Sys2Proof.Proofs
end

section
/-! The invariant in the initial state (spec/70_reset_and_hazards.md R161), and what it says of a completion
step: the flags and the kind that the operation reports (spec/40_common.md R84; spec/30_encoding.md R71;
spec/60_exceptions.md R142). -/

namespace Sys2Proof.Proofs

open Sys2Proof.Machine

/-! ### The initial state -/

/-- Settles O52: an idle block with every counter at its least value, zeros in both buffers and empty queues. -/
theorem initialStateMeetsInv : Obligations.InitialStateMeetsInv where
  regs := ⟨(by decide : bit 0x00 6 = false ∧ bit 0x00 7 = false),
    by simp [State.busy, State.reset, Regs.reset, Engine.reset, bit],
    (by decide : bit 0x00 TBUF_VALID = false), .checkOk, rfl⟩
  counters := by constructor <;> simp [State.reset, Engine.reset, Fsm.searches]
  candidate := ⟨nofun, nofun, nofun⟩
  tbuf := .inl ⟨rfl, rfl⟩
  txbuf := ⟨(by decide : cmdChecksum Engine.reset.txbuf = Engine.reset.txbuf[8]), nofun⟩
  visiting := fun h => absurd rfl h
  rxDepth := Nat.zero_le _
  txDepth := Nat.zero_le _

/-! ### The kind of a completion -/

theorem failedAttempt_result {s : State} (h : (failedAttempt s).eng.fsm = .idle) :
    (failedAttempt s).regs.result = ResultKind.notAvailable.code := by
  rcases failedAttempt_cases s with ⟨-, e⟩ | ⟨-, e⟩ <;> rw [e] at h ⊢
  · cases h
  · rfl

theorem headerStart_result {b : Byte} {s : State} (hs : s.eng.fsm ≠ .idle)
    (h : (headerStart b s).eng.fsm = .idle) :
    (headerStart b s).regs.result = ResultKind.notAvailable.code := by
  unfold headerStart at h ⊢
  split at h
  next => exact absurd h hs
  next hb =>
    rw [if_neg hb]
    rcases byteSkip_cases s with ⟨-, e⟩ | ⟨-, e⟩ <;> rw [e] at h ⊢
    · exact absurd h hs
    · rfl

theorem headerNext_result {k : Fin 4} {b : Byte} {s : State} (hs : s.eng.fsm ≠ .idle)
    (h : (headerNext k b s).eng.fsm = .idle) :
    (headerNext k b s).regs.result = ResultKind.notAvailable.code := by
  unfold headerNext at h ⊢
  split at h
  next hb =>
    rw [if_pos hb]
    exact failedAttempt_result h
  next =>
    split at h
    · cases h
    · exact absurd h hs

/-- An Engine move that ends a running operation reports a kind of that operation (R71, R142). -/
theorem engineMove_reports {s t : State} {i : Instr} (m : EngineMove s t) (hop : s.running = some i)
    (hv : visits i s.eng.fsm = true) (ht : t.eng.fsm = .idle) :
    ∃ k, produces i k = true ∧ t.regs.result = k.code := by
  have hs : s.eng.fsm ≠ .idle := by
    intro e
    rw [e, visits_idle] at hv
    cases hv
  have search (hf : s.eng.fsm = .syncStart ∨ s.eng.fsm.searches = true) {k : ResultKind}
      (hk : produces .syncFrame k = true) (hr : t.regs.result = k.code) :
      ∃ k, produces i k = true ∧ t.regs.result = k.code := by
    obtain rfl := eq_syncFrame_of_visits hv hf
    exact ⟨k, hk, hr⟩
  cases m with
  | hold => exact absurd ht hs
  | cleared | queryFlushed | sleepFlushed | settled | searching => cases ht
  | pushed | received | bodyRead =>
    simp only [receiveByte, bodyByte] at ht
    split at ht <;> cases ht
  | sent _ _ hi =>
    rcases hi with hi | hi <;> cases hop.symm.trans hi <;> exact ⟨.checkOk, rfl, rfl⟩
  | timedOut t j _ _ _ hj hd =>
    cases hop.symm.trans hj
    obtain ⟨k, g, rfl, -, -, -, hk⟩ := doneOf_complete hd
    exact ⟨k, hk (by simp), rfl⟩
  | evaluated t j k _ hj hkind hd =>
    cases hop.symm.trans hj
    obtain ⟨k, g, rfl, -, -, -, hk⟩ := doneOf_complete hd
    refine ⟨k, hk ?_, rfl⟩
    rw [hkind]
    split <;> simp
  | tooFew hf => exact search (.inl hf) (k := .notAvailable) rfl rfl
  | headerByte hf =>
    exact search (.inr (by rw [hf]; rfl)) (k := .notAvailable) rfl
      (headerStart_result (by simpa using hs) ht)
  | headerLater k hf =>
    exact search (.inr (by rw [hf]; rfl)) (k := .notAvailable) rfl
      (headerNext_result (by simpa using hs) ht)
  | accepted hf => exact search (.inr (by rw [hf]; rfl)) (k := .checkOk) rfl rfl
  | rejected hf =>
    exact search (.inr (by rw [hf]; rfl)) (k := .notAvailable) rfl (failedAttempt_result ht)
  | extracted hf =>
    rw [hf] at hv
    obtain rfl : i = .extractFrame := by cases i <;> first | rfl | cases hv
    exact ⟨.checkOk, rfl, rfl⟩

/-! ### The flags of a completion -/

/-- A turn of the Engine that clears `BUSY` sets `DONE` (R84). -/
theorem engineStatus_done {s t : State} (h : EngineStatus s t) (hs : s.busy = true)
    (ht : t.busy = false) : bit t.regs.status DONE = true := by
  unfold State.busy at hs ht
  cases h with
  | same e =>
    rw [e, hs] at ht
    cases ht
  | underflow _ _ e =>
    rw [e] at ht
    simp [hs] at ht
  | completed _ _ e | underflowed _ _ _ e | accepted _ _ _ e | extracted _ _ e => simp [e]

/-- Settles O56: the invariant before the step names the operation, whose kind the step reports
(`engineMove_reports`); the invariant after it clears `BUSY`. -/
theorem completionStepReportsAKind : Obligations.CompletionStepReportsAKind := by
  intro s t hi hs h ht
  have busy : t.busy = false :=
    Bool.eq_false_iff.mpr fun e => (agentStep_keepsInv hi h).regs.busy.mp e ht
  obtain ⟨i, hop, hv⟩ := hi.visiting hs
  obtain ⟨k, hk, hr⟩ := engineMove_reports (engineStep_move h) hop hv ht
  exact ⟨busy, engineStatus_done (engineStep_status h) (hi.regs.busy.mpr hs) busy, i, k, hop, hk, hr⟩

end Sys2Proof.Proofs
end

section
/-! The validation law under a change of one response byte (spec/41_transaction.md R107; spec/30_encoding.md
R66): the sum of bytes 1..7 moves by the byte's own change, and no other byte but 8 is in the law. -/

namespace Sys2Proof.Proofs

open Sys2Proof.Machine

theorem responseValid_iff (r : Frame9) :
    responseValid r = true ↔ neg8 (sum8 r.toList 1 7) = r[8] := beq_iff_eq

/-- A change of one of the bytes 1..7 changes their sum by the difference (R9). -/
theorem sum8_set (r : Frame9) {i : Nat} (h1 : 1 ≤ i) (h7 : i ≤ 7) (b : Byte) :
    sum8 (r.set i b).toList 1 7 = sum8 r.toList 1 7 + (-r[i] + b) := by
  obtain ⟨k, rfl⟩ : ∃ k, i = k + 1 := ⟨i - 1, by omega⟩
  have hlen : k < (span r.toList 1 7).length := by simp [span]; omega
  have hspan : span (r.set (k + 1) b).toList 1 7 = (span r.toList 1 7).set k b := by
    rw [Vector.toList_set, span, List.drop_set, if_neg (Nat.not_lt.mpr h1), List.take_set]
    rfl
  have hbyte : (span r.toList 1 7)[k] = r[k + 1] := by simp [span]
  unfold sum8
  rw [hspan, List.sum_set', dif_pos hlen, hbyte]

/-- With bytes 1..7 of a valid response, only the byte it has leaves it valid. -/
theorem responseValid_set_iff {r : Frame9} (hr : responseValid r = true) {i : Nat} (h1 : 1 ≤ i)
    (h7 : i ≤ 7) (b : Byte) : responseValid (r.set i b) = true ↔ b = r[i] := by
  rw [responseValid_iff] at hr ⊢
  rw [Vector.getElem_set_ne _ _ (by omega), ← hr, sum8_set r h1 h7]
  rw [neg8, neg8, neg_inj, add_eq_left, neg_add_eq_zero, eq_comm]

/-- Byte 0 is outside the law (R66). -/
theorem responseValid_set_zero (r : Frame9) (b : Byte) :
    responseValid (r.set 0 b) = responseValid r := by
  have hspan : span (r.set 0 b).toList 1 7 = span r.toList 1 7 := by
    rw [Vector.toList_set, span, List.drop_set, if_pos Nat.zero_lt_one]
    rfl
  unfold responseValid sum8
  rw [hspan, Vector.getElem_set_ne _ _ (by decide)]

/-- A flipped bit changes its byte. -/
theorem xor_bit_ne (b : Byte) {j : Nat} (hj : j < 8) : b ^^^ (1#8 <<< j) ≠ b := by
  have mask : ∀ j < 8, 1#8 <<< j ≠ 0#8 := by decide
  exact fun h => mask j hj (by simpa using h)

/-- Settles O28: a flip changes the byte (`xor_bit_ne`), so the response is no longer valid
(`responseValid_set_iff`); two flips in opposite directions at one bit position cancel in the sum. -/
theorem singleBitFlipIsDetected : Obligations.SingleBitFlipIsDetected := by
  refine ⟨?flip, responseValid_set_zero, ?cancel⟩
  case flip =>
    intro r i j hr h1 h7 hj
    exact Bool.eq_false_iff.mpr (mt (responseValid_set_iff hr h1 h7 _).mp (xor_bit_ne _ hj))
  case cancel =>
    exact ⟨#v[0x00, 0x00, 0x01, 0x00, 0x00, 0x00, 0x00, 0x00, 0xFF], 0, 0, by decide⟩

end Sys2Proof.Proofs
end

section
/-! The first byte's wait from its start to `TimeoutError` (spec/41_transaction.md R108; spec/40_common.md R92;
spec/60_exceptions.md R141). -/

namespace Sys2Proof.Proofs

open Sys2Proof.Machine

/-- Up to `T` ticks the wait only counts them, in any order with Engine turns (R108). -/
theorem run_rxWait_early {s : State} (l : List AgentStep) (rest : List Turn)
    (hf : s.eng.fsm = .rxWait) (hr : s.rx = []) (h0 : s.eng.w = 0)
    (hl : ∀ a ∈ l, a = .tick ∨ a = .engine) (hc : l.count .tick ≤ s.eng.t.toNat) :
    run l.length { s with schedule := l.map .agent ++ rest } =
      .next { s with eng.w := l.count .tick, schedule := rest } := by
  have wait := run_waiting rest (m := s.eng.t.toNat) s.eng.t.isLt.le l s (.inr hf) hl
    (fun w turns hw => engineReady_rxWait_early hf hr hw) (by omega)
  rw [h0, Nat.zero_add] at wait
  exact wait

/-- With the wait counter at `T` and no byte, the next tick and Engine turn end the operation with
`TimeoutError` (R108, R142). -/
theorem run_rxWait_expires {s : State} {i : Instr} (rest : List Turn) (hf : s.eng.fsm = .rxWait)
    (hr : s.rx = []) (hw : s.eng.w = s.eng.t.toNat) (hop : s.running = some i)
    (hreads : readsResponse i = true) :
    ∃ t, run 2 (s.withSchedule (.agent .tick :: .agent .engine :: rest)) = .next t ∧
      t.regs.result = 0x02 ∧ t.busy = false ∧ bit t.regs.status DONE = true ∧
      t.regs.resp = Vector.replicate 9 0x00 ∧ t.eng.fsm = .idle ∧ t.schedule = rest := by
  have room : s.eng.w < 65536 := hw ▸ s.eng.t.isLt
  have tick := agentStep_tick_counts (s := s.withSchedule (.agent .engine :: rest)) (.inr hf) room
  obtain ⟨-, expired⟩ :=
    readerTimesOut { s with eng.w := s.eng.w + 1, schedule := rest } i hf hr hop hreads
  obtain ⟨t, turn, ⟨whole, busy, done, -⟩, resp, -⟩ := expired (by simp [hw])
  refine ⟨t, ?run, congrArg (·.regs.result) whole, busy, done, resp, congrArg (·.eng.fsm) whole,
    congrArg (·.schedule) whole⟩
  case run =>
    rw [run_agent_turn s .tick _ 1 tick]
    exact run_agent_turn { s with eng.w := s.eng.w + 1 } .engine rest 0 turn

/-- Settles O33: the wait counts up to `T` ticks (`run_rxWait_early`), and from there one more tick and Engine
turn end it (`run_rxWait_expires`). -/
theorem timeoutAfterExactlyTPlusOneTicks : Obligations.TimeoutAfterExactlyTPlusOneTicks := by
  intro s i l rest hf hr h0 hop hreads hl hc
  refine ⟨run_rxWait_early l rest hf hr h0 hl hc, fun hT => ?_⟩
  obtain ⟨t, last, outcome⟩ := run_rxWait_expires (s := { s with eng.w := l.count .tick }) rest hf
    hr hT hop hreads
  exact ⟨t, (run_add _ 2 (run_rxWait_early l _ hf hr h0 hl hc)).trans last, outcome⟩

end Sys2Proof.Proofs
end

section
/-! The evaluation of nine received bytes by the operations that write `RESP` and `RESULT` only
(spec/41_transaction.md R101, R103, R104, R106). -/

namespace Sys2Proof.Proofs

open Sys2Proof.Machine

theorem readerKind_ne_timeoutError (r : Frame9) : readerKind r ≠ .timeoutError := by
  unfold readerKind
  split <;> decide

/-- Every reading operation but the query writes nothing at its evaluation but `RESP` and the kind its rule
gives (R84, R92, R101, R103, R104). -/
theorem engineStep_evaluates {s : State} {i : Instr} (hf : s.eng.fsm = .respEval)
    (hop : s.running = some i) (hreads : readsResponse i = true) (hne : i ≠ .queryDust) :
    ∃ t, engineStep s = .next t ∧ completedAs (responseKind i s.eng.rbuf)
      { s.regs with resp := s.eng.rbuf } s.eng (bit s.regs.status TBUF_VALID) s t := by
  have record : recordResponse (readerKind s.eng.rbuf) s = { s with regs.resp := s.eng.rbuf } := by
    unfold recordResponse
    rw [if_neg (readerKind_ne_timeoutError _)]
  obtain ⟨t, hd⟩ := doneOf_of_readsResponse hreads (readerKind s.eng.rbuf)
    (recordResponse (readerKind s.eng.rbuf) s)
  have step : engineStep s = .next t := (engineStep_respEval hf).trans (responseDone_eq hop hd)
  rw [record] at hd
  have result := doneOf_result (s := { s with regs.resp := s.eng.rbuf }) hd
  have ended : ∃ k, t = State.complete { s with regs.resp := s.eng.rbuf } k := by
    rcases doneOf_cases hd with ⟨e, -⟩ | ⟨-, ht | ⟨-, ht⟩⟩
    · exact absurd e hne
    · exact ⟨_, ht⟩
    · exact ⟨_, ht⟩
  obtain ⟨k, rfl⟩ := ended
  obtain rfl : k = responseKind i s.eng.rbuf := (code_eq_iff _ _).mp result
  exact ⟨_, step, completedAs_complete s _ s.eng _ fun _ _ _ => rfl⟩

/-- Settles O37: the kind of the operation's rule is the one the statement writes out. -/
theorem sleepAndWakeCheckTheEcho : Obligations.SleepAndWakeCheckTheEcho := by
  intro s i param hf hop hi
  rcases hi with ⟨rfl, rfl⟩ | ⟨rfl, rfl⟩
  · exact engineStep_evaluates hf hop rfl nofun
  · exact engineStep_evaluates hf hop rfl nofun

/-- `READ_RESPONSE` reports the checksum law alone (R101). -/
theorem responseKind_readResponse (r : Frame9) : responseKind .readResponse r =
    if neg8 (sum8 r.toList 1 7) = r[8] then .checkOk else .checksumError := ite_not ..

/-- Settles O35: the evaluation with the kind of `responseKind_readResponse`. -/
theorem readResponseCompletes : Obligations.ReadResponseCompletes := by
  intro s hf hop
  rw [← responseKind_readResponse]
  exact engineStep_evaluates hf hop rfl nofun

/-- The issue of a sending operation leaves in the transmit buffer a frame that obeys the checksum law (R65,
R80). -/
theorem checksum_of_sending {i : Instr}
    (hi : i = .sendCommand ∨ i = .queryDust ∨ i = .enterSleep ∨ i = .exitSleep ∨ i = .setUploadMode)
    (g : Regs) (s : State) :
    neg8 (sum8 (startOf g i s).eng.txbuf.toList 1 7) = (startOf g i s).eng.txbuf[8] := by
  rcases hi with rfl | rfl | rfl | rfl | rfl <;> exact cmdChecksum_buildCmd ..

/-- Settles O27: the issued frame obeys the law that `READ_RESPONSE` checks (`checksum_of_sending`), so its
completion (O35) is with `CheckOk`. -/
theorem sentFrameReadsBackOk : Obligations.SentFrameReadsBackOk := by
  intro s i hb hi
  have law := checksum_of_sending hi s.regs (s.latchIssue i)
  refine ⟨_, exec_of_idle i hb, law, (responseValid_iff _).mpr law, fun u hf hop hbuf => ?_⟩
  obtain ⟨v, turn, completed⟩ := readResponseCompletes u hf hop
  rw [hbuf, if_pos law] at completed
  obtain ⟨whole, -⟩ := completed
  exact ⟨v, turn, congrArg (·.regs.result) whole, congrArg (·.regs.resp) whole⟩

end Sys2Proof.Proofs
end

section
/-! The Engine's turn in the states of the synchronizer, state by state (spec/42_synchronizer.md R120 to R124). -/

namespace Sys2Proof.Proofs

open Sys2Proof.Machine

/-! ### The turn of each state -/

section
variable {s p : State} {b : Byte}

theorem engineStep_enabled (h : engineEnabled s = true) : engineStep s = engineAction s :=
  engineStep_ready s (by simp [engineReady, h])

theorem engineStep_syncStart (h : s.eng.fsm = .syncStart) : engineStep s = syncStartStep s :=
  (engineStep_enabled (by simp [engineEnabled, h])).trans (by simp [engineAction, h])

theorem engineStep_syncHdr (h : s.eng.fsm = .syncHdr) : engineStep s = syncHdrStep s :=
  (engineStep_enabled (by simp [engineEnabled, h])).trans (by simp [engineAction, h])

theorem engineStep_syncBody (h : s.eng.fsm = .syncBody) : engineStep s = syncBodyStep s :=
  (engineStep_enabled (by simp [engineEnabled, h])).trans (by simp [engineAction, h])

theorem engineStep_syncEval (h : s.eng.fsm = .syncEval) : engineStep s = syncEvalStep s :=
  (engineStep_enabled (by simp [engineEnabled, h])).trans (by simp [engineAction, h])

/-! ### The availability check -/

/-- With fewer than 32 bytes the call ends and nothing is popped (R120). -/
theorem engineStep_tooFew (h : s.eng.fsm = .syncStart) (hn : s.rx.length < 32) : engineStep s =
    .next (State.complete { s with eng.avail := s.rx.length } .notAvailable) :=
  (engineStep_syncStart h).trans (if_pos hn)

/-- With 32 bytes or more the header search begins (R120). -/
theorem engineStep_searching (h : s.eng.fsm = .syncStart) (hn : 32 ≤ s.rx.length) : engineStep s =
    .next { s with
      eng.avail := s.rx.length, eng.skip := 0, eng.fail := 0, eng.hidx := 0, eng.fsm := .syncHdr } :=
  (engineStep_syncStart h).trans (if_neg (Nat.not_lt.mpr hn))

/-! ### Failed attempts and byte skips -/

theorem failedAttempt_within (h : s.eng.fail < 3) : failedAttempt s =
    { s with eng.fail := s.eng.fail + 1, eng.hidx := 0, eng.fsm := .syncHdr } :=
  if_neg (Nat.not_lt.mpr h)

theorem failedAttempt_beyond (h : 3 ≤ s.eng.fail) : failedAttempt s =
    State.complete { s with eng.fail := s.eng.fail + 1, eng.hidx := 0 } .notAvailable :=
  if_pos (Nat.lt_succ_of_le h)

theorem byteSkip_within (h : s.eng.skip < s.eng.avail - 32) :
    byteSkip s = { s with eng.skip := s.eng.skip + 1 } := if_neg (Nat.not_lt.mpr h)

theorem byteSkip_beyond (h : s.eng.avail - 32 ≤ s.eng.skip) :
    byteSkip s = State.complete { s with eng.skip := s.eng.skip + 1 } .notAvailable :=
  if_pos (Nat.lt_succ_of_le h)

/-! ### The header search and the body -/

theorem eng_of_rxPopNB (hp : s.rxPopNB = (b, p)) : p.eng = s.eng := by
  rw [← rxPopNB_eng s, hp]

/-- A pop leaves `TBUF_VALID` alone (R88). -/
theorem tag_of_rxPopNB (hp : s.rxPopNB = (b, p)) :
    bit p.regs.status TBUF_VALID = bit s.regs.status TBUF_VALID := by
  have pop := rxPopNB_bit s TBUF_VALID (by decide)
  rw [hp] at pop
  simpa [TBUF_VALID, RX_UNDERFLOW] using pop

/-- The header search at index 0 pops one byte and compares it with the first header byte (R121). -/
theorem engineStep_headerStart (h : s.eng.fsm = .syncHdr) (h0 : s.eng.hidx = 0)
    (hp : s.rxPopNB = (b, p)) : engineStep s = .next (headerStart b p) := by
  rw [engineStep_syncHdr h, syncHdrStep, dif_pos (by omega), if_pos h0, hp]

/-- The header search at index 1 to 3 pops one byte and compares it with its header byte (R122). -/
theorem engineStep_headerNext {k : Fin 4} (h : s.eng.fsm = .syncHdr) (hk : s.eng.hidx = k.val)
    (h0 : 0 < k.val) (hp : s.rxPopNB = (b, p)) : engineStep s = .next (headerNext k b p) := by
  rw [engineStep_syncHdr h, syncHdrStep, dif_pos (by omega), if_neg (by omega), hp]
  simp only [hk]

/-- The body read pops one byte, whatever the RX count is (R123). -/
theorem engineStep_bodyByte (h : s.eng.fsm = .syncBody) (hi : s.eng.bidx < 32)
    (hp : s.rxPopNB = (b, p)) : engineStep s = .next { p with
      eng.fbuf := s.eng.fbuf.set s.eng.bidx b
      eng.sum := s.eng.sum + zext16 b
      eng.bidx := s.eng.bidx + 1
      eng.fsm := if s.eng.bidx + 1 = 32 then .syncEval else .syncBody } := by
  have he := eng_of_rxPopNB hp
  simp only [engineStep_syncBody h, syncBodyStep, hp, bodyByte, he]
  exact dif_pos hi

/-- A byte that matches the first header byte starts the candidate and its sum (R121). -/
theorem headerStart_match (hb : b = 0x42) : headerStart b s =
    { s with eng.fbuf := s.eng.fbuf.set 0 b, eng.sum := zext16 b, eng.hidx := 1 } := if_pos hb

theorem headerStart_mismatch (hb : b ≠ 0x42) : headerStart b s = byteSkip s := if_neg hb

/-- A byte that matches its header byte joins the candidate and its sum (R122). -/
theorem headerNext_match {k : Fin 4} (hb : b = Config.HDR[k]) (h3 : k.val < 3) : headerNext k b s =
    { s with
      eng.fbuf := s.eng.fbuf.set k.val b, eng.sum := s.eng.sum + zext16 b
      eng.hidx := k.val + 1 } := (if_neg (not_not.mpr hb)).trans (if_neg h3.ne)

/-- The last header byte is followed by the body (R122). -/
theorem headerNext_last {k : Fin 4} (hb : b = Config.HDR[k]) (h3 : k.val = 3) : headerNext k b s =
    { s with
      eng.fbuf := s.eng.fbuf.set k.val b, eng.sum := s.eng.sum + zext16 b
      eng.bidx := 4, eng.fsm := .syncBody } := (if_neg (not_not.mpr hb)).trans (if_pos h3)

theorem headerNext_mismatch {k : Fin 4} (hb : b ≠ Config.HDR[k]) :
    headerNext k b s = failedAttempt s := if_pos hb

/-! ### The evaluation -/

/-- A checksum match ends the call with the candidate in the telemetry buffer (R124). -/
theorem engineStep_accepted (h : s.eng.fsm = .syncEval)
    (hc : runningChecksumOk s.eng.sum s.eng.fbuf = true) :
    engineStep s = .next ((acceptFrame s).complete .checkOk) :=
  (engineStep_syncEval h).trans (if_pos hc)

/-- A checksum mismatch is a failed attempt (R124). -/
theorem engineStep_rejected (h : s.eng.fsm = .syncEval)
    (hc : runningChecksumOk s.eng.sum s.eng.fbuf = false) :
    engineStep s = .next (failedAttempt s) :=
  (engineStep_syncEval h).trans (if_neg (by simp [hc]))

end

/-! ### The statements -/

/-- A failed attempt beyond the budget is a completion and no more (R122). -/
theorem failedAttempt_completes {s : State} (h : 3 ≤ s.eng.fail) : completedAs .notAvailable s.regs
    { s.eng with fail := s.eng.fail + 1, hidx := 0 } (bit s.regs.status TBUF_VALID) s
    (failedAttempt s) := by
  rw [failedAttempt_beyond h]
  exact completedAs_complete s s.regs { s.eng with fail := s.eng.fail + 1, hidx := 0 } .notAvailable
    fun _ _ _ => rfl

/-- A byte skip beyond the allowance is a completion and no more (R121). -/
theorem byteSkip_completes {s : State} (h : s.eng.avail - 32 ≤ s.eng.skip) :
    completedAs .notAvailable s.regs { s.eng with skip := s.eng.skip + 1 }
      (bit s.regs.status TBUF_VALID) s (byteSkip s) := by
  rw [byteSkip_beyond h]
  exact completedAs_complete s s.regs { s.eng with skip := s.eng.skip + 1 } .notAvailable
    fun _ _ _ => rfl

/-- Settles O40: the two branches of the availability check. -/
theorem syncStartChecksAvailability : Obligations.SyncStartChecksAvailability := by
  intro s hf
  constructor
  · intro hn
    exact ⟨_, engineStep_tooFew hf hn,
      completedAs_complete s s.regs { s.eng with avail := s.rx.length } .notAvailable
        fun _ _ _ => rfl⟩
  · exact engineStep_searching hf

/-- Settles O41: a match, and a mismatch as a byte skip within the allowance and beyond it. -/
theorem headerSearchSkipsBytes : Obligations.HeaderSearchSkipsBytes := by
  intro s p b hf h0 hp
  have turn : agentStep .engine s = .next (headerStart b p) := engineStep_headerStart hf h0 hp
  rw [← eng_of_rxPopNB hp, ← tag_of_rxPopNB hp, turn]
  refine ⟨fun hb => ?_, fun hb within => ?_, fun hb beyond => ?_⟩
  · rw [headerStart_match hb]
    rfl
  · rw [headerStart_mismatch hb, byteSkip_within within]
  · rw [headerStart_mismatch hb]
    exact ⟨_, rfl, byteSkip_completes (Nat.le_of_lt_succ beyond)⟩

/-- Settles O42: a match before the last header byte and at it, and a mismatch as a failed attempt within
the budget and beyond it. -/
theorem headerMismatchIsAFailedAttempt : Obligations.HeaderMismatchIsAFailedAttempt := by
  intro s p b k hf hk h0 hp want
  have turn : agentStep .engine s = .next (headerNext k b p) := engineStep_headerNext hf hk h0 hp
  rw [← eng_of_rxPopNB hp, ← tag_of_rxPopNB hp, turn]
  refine ⟨fun hb h3 => ?_, fun hb h3 => ?_, fun hb within => ?_, fun hb beyond => ?_⟩
  · rw [headerNext_match hb h3]
    rfl
  · rw [headerNext_last hb h3]
    rfl
  · rw [headerNext_mismatch hb, failedAttempt_within within]
  · rw [headerNext_mismatch hb]
    exact ⟨_, rfl, failedAttempt_completes (Nat.le_of_lt_succ beyond)⟩

/-- Settles O43: the turn of `SYNC_BODY` asks nothing of the RX queue (`engineStep_bodyByte`). -/
theorem bodyReadIsUnconditional : Obligations.BodyReadIsUnconditional := by
  intro s p b i hf hi hp
  have body := engineStep_bodyByte hf (hi ▸ i.isLt) hp
  simp only [hi] at body
  exact body

/-- Settles O44: the comparison of R124 byte by byte, then a completion with the candidate, or a failed
attempt within the budget and beyond it. -/
theorem checksumDecidesTheAttempt : Obligations.ChecksumDecidesTheAttempt := by
  intro s hf c ok
  have law : runningChecksumOk s.eng.sum s.eng.fbuf = true ↔ ok := by
    rw [runningChecksumOk, Bool.and_eq_true, beq_iff_eq, beq_iff_eq]
    rfl
  have turn (h : ¬ ok) : agentStep .engine s = .next (failedAttempt s) :=
    engineStep_rejected hf (Bool.eq_false_iff.mpr (mt law.mp h))
  refine ⟨fun h => ?_, fun h within => ?_, fun h beyond => ?_⟩
  · have tag : bit (acceptFrame s).regs.status TBUF_VALID = true := by
      simp [bit_setBit _ _ TBUF_VALID (by decide)]
    have completed := completedAs_complete s (acceptFrame s).regs (acceptFrame s).eng .checkOk
      fun b hb hne => by simp [hb, hne]
    rw [tag] at completed
    exact ⟨_, engineStep_accepted hf (law.mpr h), completed⟩
  · rw [turn h, failedAttempt_within within]
  · exact ⟨_, turn h, failedAttempt_completes (Nat.le_of_lt_succ beyond)⟩

end Sys2Proof.Proofs
end

section
/-! The runs of a `SYNC_FRAME` call over frames that wait in the RX queue, by the eager schedule
(spec/42_synchronizer.md R121 to R124, R128; log entry 3). -/

namespace Sys2Proof.Proofs

open Sys2Proof.Machine

/-! ### One step of the search -/

/-- Past its availability check the synchronizer always has its step (R31). -/
theorem engineReady_searches {s : State} (h : s.eng.fsm.searches = true) : engineReady s = true := by
  simp only [Fsm.searches, decide_eq_true_eq] at h
  rcases h with h | h | h <;> simp [engineReady, engineEnabled, h]

theorem step_searches {s t : State} (h : s.schedule = []) (hf : s.eng.fsm.searches = true)
    (he : engineStep s = .next t) : step s = .next t :=
  step_of_engineStep h (engineReady_searches hf) he

/-! ### Garbage -/

/-- Bytes other than 0x42 are skipped, one a step, within the allowance (R121). -/
theorem run_skips (rest : List Byte) (g : List Byte) (s : State) (h : s.schedule = [])
    (hf : s.eng.fsm = .syncHdr) (h0 : s.eng.hidx = 0) (hx : s.rx = g ++ rest)
    (hg : ∀ b ∈ g, b ≠ 0x42) (allowed : s.eng.skip + g.length ≤ s.eng.avail - 32) :
    run g.length s = .next { s with rx := rest, eng.skip := s.eng.skip + g.length } := by
  induction g generalizing s with
  | nil =>
    rw [List.nil_append] at hx
    rw [← hx]
    rfl
  | cons b g ih =>
    rw [List.length_cons] at allowed ⊢
    have turn := engineStep_headerStart hf h0 (rxPopNB_cons s b (g ++ rest) hx)
    rw [headerStart_mismatch (hg b List.mem_cons_self),
      byteSkip_within (s := { s with rx := g ++ rest }) (by simp; omega)] at turn
    rw [run_succ _ (step_searches h (by rw [hf]; rfl) turn)]
    refine (ih { s with rx := g ++ rest, eng.skip := s.eng.skip + 1 } h hf h0 rfl
      (fun c hc => hg c (List.mem_cons_of_mem b hc)) (by simp; omega)).trans ?_
    rw [show s.eng.skip + (g.length + 1) = s.eng.skip + 1 + g.length by omega]

/-! ### A candidate -/

/-- The synchronizer stands at byte `k` of a candidate: in the header, in the body or past its end. -/
def standsAt (k : Nat) (e : Engine) : Prop :=
  (e.fsm = .syncHdr ∧ e.hidx = k ∧ k < 4) ∨ (e.fsm = .syncBody ∧ e.bidx = k ∧ 4 ≤ k ∧ k < 32) ∨
  (e.fsm = .syncEval ∧ k = 32)

theorem standsAt_searches {k : Nat} {e : Engine} (h : standsAt k e) : e.fsm.searches = true := by
  rcases h with ⟨hf, -⟩ | ⟨hf, -⟩ | ⟨hf, -⟩ <;> rw [hf] <;> rfl

/-- The place after a body byte (R123). -/
theorem standsAt_body {k : Nat} {e : Engine} (h4 : 4 ≤ k) (hk : k < 32) (hi : e.bidx = k + 1)
    (hf : e.fsm = if k + 1 = 32 then .syncEval else .syncBody) : standsAt (k + 1) e := by
  by_cases last : k + 1 = 32
  · exact .inr (.inr ⟨hf.trans (if_pos last), last⟩)
  · exact .inr (.inl ⟨hf.trans (if_neg last), hi, by omega⟩)

/-- The synchronizer has read `k` bytes of the frame `f` into the candidate and its sum. -/
structure ReadsCandidate (f : Frame32) (k : Nat) (e : Engine) : Prop where
  place : standsAt k e
  bytes : ∀ (j : Nat) (hj : j < 32), j < k → e.fbuf[j] = f[j]
  sum   : 0 < k → e.sum = prefixSum f k

/-- The internal elements differ in the candidate and the synchronizer's place in it at most. -/
def onlyCandidate (e e' : Engine) : Prop :=
  e' = { e with
    fbuf := e'.fbuf, sum := e'.sum, hidx := e'.hidx, bidx := e'.bidx, fsm := e'.fsm }

theorem onlyCandidate.trans {e e' e'' : Engine} (h : onlyCandidate e e')
    (h' : onlyCandidate e' e'') : onlyCandidate e e'' := by
  unfold onlyCandidate at *
  rw [h', h]

theorem readsCandidate_start {e : Engine} (f : Frame32) (hf : e.fsm = .syncHdr) (h0 : e.hidx = 0) :
    ReadsCandidate f 0 e :=
  ⟨.inl ⟨hf, h0, Nat.zero_lt_succ 3⟩, nofun, nofun⟩

/-- A candidate of which 32 bytes are read is the frame, and the evaluation follows (R123). -/
theorem ReadsCandidate.whole {f : Frame32} {e : Engine} (h : ReadsCandidate f 32 e) :
    e.fsm = .syncEval ∧ e.fbuf = f ∧ e.sum = prefixSum f 32 := by
  refine ⟨?_, Vector.ext fun j hj => h.bytes j hj hj, h.sum (by decide)⟩
  rcases h.place with ⟨-, -, h4⟩ | ⟨-, -, -, h32⟩ | ⟨hf, -⟩
  · omega
  · omega
  · exact hf

theorem prefixSum_succ (f : Frame32) {k : Nat} (h : k < 32) :
    prefixSum f (k + 1) = prefixSum f k + zext16 f[k] := by
  have stored := prefixSum_set_succ f k h f[k]
  rwa [Vector.set_getElem_self] at stored

/-- One more byte of the candidate, stored at its index and added to the sum. -/
theorem ReadsCandidate.next {f : Frame32} {k : Nat} {e e' : Engine} (h : ReadsCandidate f k e)
    (hk : k < 32) (place : standsAt (k + 1) e') (hbuf : e'.fbuf = e.fbuf.set k f[k])
    (hsum : e'.sum = prefixSum f k + zext16 f[k]) : ReadsCandidate f (k + 1) e' := by
  refine ⟨place, fun j hj hlt => ?_, fun _ => ?_⟩
  · simp only [hbuf]
    by_cases hkj : k = j
    · subst hkj
      exact Vector.getElem_set_self ..
    · rw [Vector.getElem_set_ne _ _ hkj]
      exact h.bytes j hj (by omega)
  · rw [hsum, prefixSum_succ f hk]

theorem headerByte_of_headerOk {f : Frame32} (h : telemetryHeaderOk f = true) (k : Fin 4) :
    f[k.val] = Config.HDR[k] := by
  obtain ⟨h0, h1, h2, h3⟩ := (telemetryHeaderOk_iff f).mp h
  match k with
  | 0 => exact h0
  | 1 => exact h1
  | 2 => exact h2
  | 3 => exact h3

/-- With a frame's bytes waiting, the synchronizer takes the next one into the candidate (R121 to R123). -/
theorem step_candidate {f : Frame32} (header : telemetryHeaderOk f = true) {k : Nat} {s : State}
    {rest : List Byte} (h : s.schedule = []) (hc : ReadsCandidate f k s.eng) (hk : k < 32)
    (hx : s.rx = f.toList.drop k ++ rest) :
    ∃ e, step s = .next { s with rx := f.toList.drop (k + 1) ++ rest, eng := e } ∧
      ReadsCandidate f (k + 1) e ∧ onlyCandidate s.eng e := by
  have pop := rxPopNB_cons s f[k] (f.toList.drop (k + 1) ++ rest) (by
    rw [hx, List.drop_eq_getElem_cons (by simpa using hk), Vector.getElem_toList, List.cons_append])
  have moves {t : State} (he : engineStep s = .next t) : step s = .next t :=
    step_searches h (standsAt_searches hc.place) he
  rcases hc.place with ⟨hf, hi, h4⟩ | ⟨hf, rfl, h4, -⟩ | ⟨-, h32⟩
  · obtain rfl | hpos := Nat.eq_zero_or_pos k
    · have turn := engineStep_headerStart hf hi pop
      have matched : f[0] = 0x42 := headerByte_of_headerOk header 0
      rw [headerStart_match matched] at turn
      refine ⟨_, moves turn, hc.next hk (.inl ⟨hf, rfl, by omega⟩) rfl ?_, rfl⟩
      simp [prefixSum]
    · have turn := engineStep_headerNext (k := ⟨k, h4⟩) hf hi hpos pop
      have matched := headerByte_of_headerOk header ⟨k, h4⟩
      obtain h3 | rfl : k < 3 ∨ k = 3 := by omega
      · rw [headerNext_match matched h3] at turn
        exact ⟨_, moves turn, hc.next hk (.inl ⟨hf, rfl, by omega⟩) rfl
          (congrArg (· + _) (hc.sum hpos)), rfl⟩
      · rw [headerNext_last matched rfl] at turn
        exact ⟨_, moves turn, hc.next hk (.inr (.inl ⟨rfl, rfl, by decide⟩)) rfl
          (congrArg (· + _) (hc.sum hpos)), rfl⟩
  · exact ⟨_, moves (engineStep_bodyByte hf hk pop), hc.next hk (standsAt_body h4 hk rfl rfl) rfl
      (congrArg (· + _) (hc.sum (by omega))), rfl⟩
  · omega

/-- A whole frame with the right header becomes the candidate, one byte a step. -/
theorem run_candidate {f : Frame32} (header : telemetryHeaderOk f = true) (rest : List Byte) (n : Nat)
    {k : Nat} (s : State) (h : s.schedule = []) (hc : ReadsCandidate f k s.eng) (hk : k + n = 32)
    (hx : s.rx = f.toList.drop k ++ rest) :
    ∃ e, run n s = .next { s with rx := rest, eng := e } ∧ ReadsCandidate f 32 e ∧
      onlyCandidate s.eng e := by
  induction n generalizing k s with
  | zero =>
    obtain rfl : k = 32 := hk
    rw [List.drop_eq_nil_of_le (by simp), List.nil_append] at hx
    exact ⟨s.eng, by rw [← hx]; rfl, hc, rfl⟩
  | succ n ih =>
    obtain ⟨e, first, hc', keeps⟩ := step_candidate header h hc (by omega) hx
    obtain ⟨e', more, hc'', keeps'⟩ := ih (k := k + 1)
      { s with rx := f.toList.drop (k + 1) ++ rest, eng := e } h hc' (by omega) rfl
    exact ⟨e', (run_succ n first).trans more, hc'', keeps.trans keeps'⟩

/-! ### A whole attempt -/

/-- The synchronizer's comparison on a whole candidate is the frame's checksum law (R69, R124). -/
theorem ReadsCandidate.comparison {f : Frame32} {e : Engine} (h : ReadsCandidate f 32 e) :
    runningChecksumOk e.sum e.fbuf = telemetryChecksumOk f := by
  obtain ⟨-, hbuf, hsum⟩ := h.whole
  obtain ⟨-, -, -, comparison⟩ := runningSumEqualsDirectSum f
  rw [hbuf, hsum]
  exact comparison

/-- A waiting frame with the right header and the checksum law becomes the telemetry buffer (R124). -/
theorem run_accepted {f : Frame32} (valid : telemetryValid f = true) (rest : List Byte) {s : State}
    (h : s.schedule = []) (hf : s.eng.fsm = .syncHdr) (h0 : s.eng.hidx = 0)
    (hx : s.rx = f.toList ++ rest) :
    ∃ e, run 33 s = .next (State.complete (acceptFrame { s with rx := rest, eng := e }) .checkOk) ∧
      e.fbuf = f := by
  obtain ⟨header, law⟩ := Bool.and_eq_true_iff.mp valid
  obtain ⟨e, read, hc, -⟩ := run_candidate header rest 32 s h (readsCandidate_start f hf h0) rfl hx
  obtain ⟨heval, hbuf, -⟩ := hc.whole
  have last := step_searches (s := { s with rx := rest, eng := e }) h (standsAt_searches hc.place)
    (engineStep_accepted heval (hc.comparison.trans law))
  exact ⟨e, (run_add 32 1 read).trans (run_succ 0 last), hbuf⟩

/-- A waiting frame with the right header and a wrong checksum is a failed attempt (R124). -/
theorem run_rejected {f : Frame32} (bad : corrupted f = true) (rest : List Byte) {s : State}
    (h : s.schedule = []) (hf : s.eng.fsm = .syncHdr) (h0 : s.eng.hidx = 0)
    (hx : s.rx = f.toList ++ rest) :
    ∃ e, run 33 s = .next (failedAttempt { s with rx := rest, eng := e }) ∧
      onlyCandidate s.eng e := by
  obtain ⟨header, law⟩ := Bool.and_eq_true_iff.mp bad
  obtain ⟨e, read, hc, keeps⟩ :=
    run_candidate header rest 32 s h (readsCandidate_start f hf h0) rfl hx
  obtain ⟨heval, -⟩ := hc.whole
  have last := step_searches (s := { s with rx := rest, eng := e }) h (standsAt_searches hc.place)
    (engineStep_rejected heval (hc.comparison.trans (Bool.not_eq_eq_eq_not.mp law)))
  exact ⟨e, (run_add 32 1 read).trans (run_succ 0 last), keeps⟩

/-! ### The corrupted frames -/

/-- The internal elements are those of a call that has counted `n` failed attempts more and is back at the
start of the header. -/
structure Resumes (n : Nat) (e e' : Engine) : Prop where
  fsm  : e'.fsm = .syncHdr
  hidx : e'.hidx = 0
  fail : e'.fail = e.fail + n
  tbuf : e'.tbuf = e.tbuf
  tag  : e'.tbufValid = e.tbufValid

/-- Within the budget every waiting corrupted frame costs its 32 bytes and one failed attempt (R122, R124). -/
theorem run_corrupted (rest : List Byte) (bad : List Frame32) (s : State) (h : s.schedule = [])
    (hf : s.eng.fsm = .syncHdr) (h0 : s.eng.hidx = 0) (hbad : ∀ b ∈ bad, corrupted b = true)
    (within : s.eng.fail + bad.length ≤ 3) (hx : s.rx = (bad.map Vector.toList).flatten ++ rest) :
    ∃ e, run (33 * bad.length) s = .next { s with rx := rest, eng := e } ∧
      Resumes bad.length s.eng e := by
  induction bad generalizing s with
  | nil =>
    simp only [List.map_nil, List.flatten_nil, List.nil_append] at hx
    exact ⟨s.eng, by rw [← hx]; rfl, hf, h0, rfl, rfl, rfl⟩
  | cons f bad ih =>
    rw [List.length_cons] at within ⊢
    rw [List.map_cons, List.flatten_cons, List.append_assoc] at hx
    obtain ⟨e, first, keeps⟩ := run_rejected (hbad f List.mem_cons_self) _ h hf h0 hx
    have hfail : e.fail = s.eng.fail := by rw [keeps]
    rw [failedAttempt_within (by simp only [hfail]; omega)] at first
    obtain ⟨e', more, resumes⟩ := ih { s with
        rx := (bad.map Vector.toList).flatten ++ rest
        eng := { e with fail := e.fail + 1, hidx := 0, fsm := .syncHdr } } h rfl rfl
      (fun b hb => hbad b (List.mem_cons_of_mem f hb)) (by simp only [hfail]; omega) rfl
    refine ⟨e', ?_, resumes.fsm, resumes.hidx, ?_, ?_, ?_⟩
    · rw [show 33 * (bad.length + 1) = 33 + 33 * bad.length by omega]
      exact (run_add 33 _ first).trans more
    · refine resumes.fail.trans ?_
      simp only [hfail]
      omega
    · rw [resumes.tbuf, keeps]
    · rw [resumes.tag, keeps]

/-! ### From the issue to the end of the call -/

theorem busy_complete (s : State) (k : ResultKind) : (s.complete k).busy = false := by
  simp [State.busy]

/-- The state in which an issued `SYNC_FRAME` begins its header search. -/
def searchStarted (s : State) : State :=
  { startOf s.regs .syncFrame (s.latchIssue .syncFrame) with
    eng.avail := s.rx.length, eng.skip := 0, eng.fail := 0, eng.hidx := 0, eng.fsm := .syncHdr }

/-- The availability check of an issued `SYNC_FRAME` with 32 bytes or more (R120). -/
theorem run_searchStarted {s : State} (h : s.schedule = []) (hn : 32 ≤ s.rx.length) :
    run 1 (startOf s.regs .syncFrame (s.latchIssue .syncFrame)) = .next (searchStarted s) :=
  run_succ 0 (step_of_engineStep h rfl (engineStep_searching rfl hn))

/-- Settles O45: the availability check, the skips (`run_skips`) and one accepted attempt. -/
theorem frameAfterGarbageIsFound : Obligations.FrameAfterGarbageIsFound := by
  intro s g f rest hb h hx hg valid
  rw [List.append_assoc] at hx
  have len : s.rx.length = g.length + (32 + rest.length) := by simp [hx]
  have check := run_searchStarted h (by omega)
  have skips := run_skips (f.toList ++ rest) g (searchStarted s) h rfl rfl hx hg
    (by simp only [searchStarted]; omega)
  obtain ⟨e, attempt, hbuf⟩ := run_accepted valid rest (s := { searchStarted s with
    rx := f.toList ++ rest, eng.skip := 0 + g.length }) h rfl rfl rfl
  have call := (run_add 1 _ check).trans ((run_add _ 33 skips).trans attempt)
  rw [show 1 + (g.length + 33) = g.length + 34 by omega] at call
  exact ⟨_, _, exec_of_idle .syncFrame hb, call, rfl, busy_complete _ _, hbuf, rfl,
    by simp [TBUF_VALID], rfl, rfl, rfl⟩

/-- Settles O46: the availability check and the corrupted frames (`run_corrupted`), then an accepted attempt
or one failed attempt too many. -/
theorem threeCorruptedFramesAreTolerated : Obligations.ThreeCorruptedFramesAreTolerated := by
  intro s bad f rest hb h hbad
  constructor
  · intro within valid hx
    have check := run_searchStarted h (by simp [hx]; omega)
    rw [List.append_assoc] at hx
    obtain ⟨e, rejects, resumes⟩ := run_corrupted (f.toList ++ rest) bad (searchStarted s) h rfl rfl
      hbad (by simpa [searchStarted] using within) hx
    obtain ⟨e', attempt, hbuf⟩ := run_accepted valid rest (s := { searchStarted s with
      rx := f.toList ++ rest, eng := e }) h resumes.fsm resumes.hidx rfl
    have call := (run_add 1 _ check).trans ((run_add _ 33 rejects).trans attempt)
    rw [show 1 + (33 * bad.length + 33) = 33 * bad.length + 34 by omega] at call
    exact ⟨_, _, exec_of_idle .syncFrame hb, call, rfl, busy_complete _ _, hbuf, rfl, rfl⟩
  · intro four hx
    obtain ⟨three, last, rfl⟩ : ∃ three last, bad = three ++ [last] :=
      ⟨_, _, (List.dropLast_append_getLast (List.ne_nil_of_length_pos (by omega))).symm⟩
    have hthree : three.length = 3 := by simpa using four
    have check := run_searchStarted h (by simp [hx]; omega)
    rw [List.map_append, List.flatten_append, List.append_assoc, List.map_singleton,
      List.flatten_singleton] at hx
    obtain ⟨e, rejects, resumes⟩ := run_corrupted (last.toList ++ rest) three (searchStarted s) h rfl
      rfl (fun b hb => hbad b (List.mem_append_left _ hb)) (by simp [searchStarted, hthree]) hx
    obtain ⟨e', fourth, keeps⟩ := run_rejected (hbad last (by simp)) rest (s := { searchStarted s with
      rx := last.toList ++ rest, eng := e }) h resumes.fsm resumes.hidx rfl
    have spent : 3 ≤ e'.fail := by
      rw [keeps]
      exact (resumes.fail.trans (congrArg (0 + ·) hthree)).ge
    rw [failedAttempt_beyond spent] at fourth
    rw [hthree] at rejects
    have call := (run_add 1 132 check).trans ((run_add 99 33 rejects).trans fourth)
    exact ⟨_, _, exec_of_idle .syncFrame hb, call, rfl, busy_complete _ _,
      (congrArg (·.tbuf) keeps).trans resumes.tbuf,
      (congrArg (·.tbufValid) keeps).trans resumes.tag, rfl⟩

end Sys2Proof.Proofs
end

section
/-! The end of every `SYNC_FRAME` call, whatever it reads (spec/42_synchronizer.md R126): what is left of a call
shrinks at each of its steps (log entry 3). -/

namespace Sys2Proof.Proofs

open Sys2Proof.Machine

/-! ### What is left of a call -/

/-- A call past its availability check, at byte `k` of a candidate and within its two budgets (R95). -/
structure InCall (k : Nat) (e : Engine) : Prop where
  place : standsAt k e
  skip  : e.skip ≤ e.avail - 32
  fail  : e.fail ≤ 3

/-- The most pops that a call can still take at byte `k` of a candidate: the skips left, and 32 bytes for
each attempt left, less the `k` bytes of this one. -/
def popsLeft (k : Nat) (e : Engine) : Nat := (e.avail - 32 - e.skip) + (32 * (4 - e.fail) - k)

/-- The most steps that a call can still take: the pops, and one evaluation for each attempt left. -/
def stepsLeft (k : Nat) (e : Engine) : Nat := popsLeft k e + (4 - e.fail)

/-- A step with `n` pops goes on with the call and leaves less of it. -/
def advances (n k : Nat) (e e' : Engine) : Prop :=
  ∃ j, InCall j e' ∧ n + popsLeft j e' ≤ popsLeft k e ∧ stepsLeft j e' < stepsLeft k e

theorem one_le_popsLeft {k : Nat} {e : Engine} (h : InCall k e) (hk : k < 32) : 1 ≤ popsLeft k e := by
  have := h.fail
  unfold popsLeft
  omega

theorem one_le_stepsLeft {k : Nat} {e : Engine} (h : InCall k e) : 1 ≤ stepsLeft k e := by
  have := h.fail
  unfold stepsLeft
  omega

section
variable {n k : Nat} {s : State} {b : Byte}

/-- A failed attempt gives up what was left of its 32 bytes, or ends the call (R122). -/
theorem failedAttempt_advances (h : InCall k s.eng) (hn : n + k ≤ 32) :
    (failedAttempt s).eng.fsm = .idle ∨ advances n k s.eng (failedAttempt s).eng := by
  rcases failedAttempt_cases s with ⟨hlt, e⟩ | ⟨-, e⟩ <;> rw [e]
  · refine .inr ⟨0, ⟨.inl ⟨rfl, rfl, by decide⟩, h.skip, hlt⟩, ?_, ?_⟩
    · simp only [popsLeft]
      omega
    · simp only [stepsLeft, popsLeft]
      omega
  · exact .inl rfl

/-- A byte taken into the candidate, and the place after it. -/
theorem advances_of_standsAt {e e' : Engine} (h : InCall k e) (hk : k < 32)
    (place : standsAt (k + 1) e') (ha : e'.avail = e.avail) (hs : e'.skip = e.skip)
    (hf : e'.fail = e.fail) : advances 1 k e e' := by
  have := h.fail
  refine ⟨k + 1, ⟨place, by rw [hs, ha]; exact h.skip, by rw [hf]; exact h.fail⟩, ?_, ?_⟩
  · simp only [popsLeft, ha, hs, hf]
    omega
  · simp only [stepsLeft, popsLeft, ha, hs, hf]
    omega

/-- At header index 0 the byte starts a candidate, or a skip is spent, or the call ends (R121). -/
theorem headerStart_advances (h : InCall 0 s.eng) (hf : s.eng.fsm = .syncHdr)
    (h0 : s.eng.hidx = 0) :
    (headerStart b s).eng.fsm = .idle ∨ advances 1 0 s.eng (headerStart b s).eng := by
  by_cases hb : b = 0x42
  · rw [headerStart_match hb]
    exact .inr (advances_of_standsAt h (by decide) (.inl ⟨hf, rfl, by decide⟩) rfl rfl rfl)
  · rw [headerStart_mismatch hb]
    rcases byteSkip_cases s with ⟨hlt, e⟩ | ⟨-, e⟩ <;> rw [e]
    · refine .inr ⟨0, ⟨.inl ⟨hf, h0, by decide⟩, hlt, h.fail⟩, ?_, ?_⟩
      · simp only [popsLeft]
        omega
      · simp only [stepsLeft, popsLeft]
        omega
    · exact .inl rfl

/-- At a later header index the byte joins the candidate, or the attempt has failed (R122). -/
theorem headerNext_advances {i : Fin 4} (h : InCall i.val s.eng) (hf : s.eng.fsm = .syncHdr) :
    (headerNext i b s).eng.fsm = .idle ∨ advances 1 i.val s.eng (headerNext i b s).eng := by
  by_cases hb : b = Config.HDR[i]
  · refine .inr ?_
    obtain h3 | h3 : i.val < 3 ∨ i.val = 3 := by omega
    · rw [headerNext_match hb h3]
      exact advances_of_standsAt h (by omega) (.inl ⟨hf, rfl, by omega⟩) rfl rfl rfl
    · rw [headerNext_last hb h3]
      exact advances_of_standsAt h (by omega) (.inr (.inl ⟨rfl, by simp [h3], by omega⟩)) rfl rfl rfl
  · rw [headerNext_mismatch hb]
    exact failedAttempt_advances h (by omega)

end

/-! ### One step of a call -/

/-- `n` bytes or draws have been popped between two states (R126). -/
def popped (n : Nat) (s t : State) : Prop :=
  s.rxCount + t.draws = t.rxCount + s.draws + n ∧ t.rxCount ≤ s.rxCount ∧ s.draws ≤ t.draws

theorem popsBetween_of_popped {n : Nat} {s t : State} (h : popped n s t) : popsBetween s t = n := by
  unfold popped at h
  unfold popsBetween
  omega

theorem popped.trans {m n : Nat} {s t u : State} (h : popped m s t) (h' : popped n t u) :
    popped (m + n) s u := by
  unfold popped at *
  omega

theorem popped_of_same {s t : State} (h : sameOutside s t) : popped 0 s t := by
  obtain ⟨hx, -, -, hd, -⟩ := h
  simp [popped, State.rxCount, hx, hd]

/-- A step that pops and then leaves the transport alone. -/
theorem popped_of_pop {s p t : State} {b : Byte} (hp : s.rxPopNB = (b, p)) (h : sameOutside p t) :
    popped 1 s t := by
  obtain ⟨hx, -, -, hd, -⟩ := h
  have count : s.rx.length + p.draws = p.rx.length + s.draws + 1 := by
    have pop := rxPopNB_count s
    rwa [hp] at pop
  have tail : p.rx = s.rx.tail := by rw [← rxPopNB_rx, hp]
  have shorter : p.rx.length ≤ s.rx.length := by simp [tail]
  have fewer : s.rx.length ≤ p.rx.length + 1 := by simp [tail]; omega
  simp only [popped, State.rxCount, hx, hd]
  omega

/-- A call has ended with `CheckOk`, or with `NotAvailable` and the telemetry buffer as it was (R126). -/
def callEnded (s t : State) : Prop :=
  t.eng.fsm = .idle ∧ (t.regs.result = 0x00 ∨
    (t.regs.result = 0x04 ∧ t.eng.tbuf = s.eng.tbuf ∧ t.eng.tbufValid = s.eng.tbufValid))

/-- A step of a call with `n` pops ends the call, or goes on and leaves less of it. -/
structure CallStep (n k : Nat) (s t : State) : Prop where
  pops     : popped n s t
  allowed  : n ≤ popsLeft k s.eng
  schedule : t.schedule = s.schedule
  outcome  : callEnded s t ∨ (advances n k s.eng t.eng ∧
    t.eng.tbuf = s.eng.tbuf ∧ t.eng.tbufValid = s.eng.tbufValid)

/-- A step that accepts no frame ends the call with `NotAvailable` if at all. -/
theorem outcome_of_keepsOutputs {n k : Nat} {s t : State} (keeps : keepsOutputs s t)
    (result : t.eng.fsm = .idle → t.regs.result = ResultKind.notAvailable.code)
    (step : t.eng.fsm = .idle ∨ advances n k s.eng t.eng) :
    callEnded s t ∨ (advances n k s.eng t.eng ∧
      t.eng.tbuf = s.eng.tbuf ∧ t.eng.tbufValid = s.eng.tbufValid) := by
  obtain ⟨-, same⟩ := keeps
  rcases step with hi | ha
  · exact .inl ⟨hi, .inr ⟨result hi, same⟩⟩
  · exact .inr ⟨ha, same⟩

/-- A step that pops one byte and accepts no frame. -/
theorem CallStep.of_pop {k : Nat} {s p t : State} {b : Byte} (hc : InCall k s.eng) (hk : k < 32)
    (hp : s.rxPopNB = (b, p)) (outside : sameOutside p t) (keeps : keepsOutputs p t)
    (result : t.eng.fsm = .idle → t.regs.result = ResultKind.notAvailable.code)
    (step : t.eng.fsm = .idle ∨ advances 1 k p.eng t.eng) : CallStep 1 k s t where
  pops := popped_of_pop hp outside
  allowed := one_le_popsLeft hc hk
  schedule := by
    obtain ⟨-, -, -, -, schedule, -⟩ := outside
    rw [schedule, ← rxPopNB_schedule s, hp]
  outcome := outcome_of_keepsOutputs (keepsOutputs_of_rxPopNB (by rw [hp]; exact keeps)) result
    (eng_of_rxPopNB hp ▸ step)

/-- Every step of a call answers a next state; before the evaluation it pops once (R121 to R124, R126). -/
theorem engineStep_inCall {k : Nat} {s : State} (h : InCall k s.eng) :
    ∃ n t, engineStep s = .next t ∧ CallStep n k s t ∧ (k < 32 → n = 1) := by
  obtain ⟨b, p, hp⟩ : ∃ b p, s.rxPopNB = (b, p) := ⟨_, _, rfl⟩
  have he := eng_of_rxPopNB hp
  have h' : InCall k p.eng := he ▸ h
  rcases h.place with ⟨hf, hk, h4⟩ | ⟨hf, rfl, h4, h32⟩ | ⟨hf, rfl⟩
  · have hf' : p.eng.fsm = .syncHdr := he ▸ hf
    have running : p.eng.fsm ≠ .idle := by simp [hf']
    obtain rfl | hpos := Nat.eq_zero_or_pos k
    · exact ⟨1, _, engineStep_headerStart hf hk hp,
        .of_pop h (by decide) hp (headerStart_sameOutside b p) (headerStart_keepsOutputs b p)
          (headerStart_result running) (headerStart_advances h' hf' (he ▸ hk)), fun _ => rfl⟩
    · exact ⟨1, _, engineStep_headerNext (k := ⟨k, h4⟩) hf hk hpos hp,
        .of_pop h (by omega) hp (headerNext_sameOutside _ b p) (headerNext_keepsOutputs _ b p)
          (headerNext_result running) (headerNext_advances (i := ⟨k, h4⟩) h' hf'), fun _ => rfl⟩
  · refine ⟨1, _, engineStep_bodyByte hf h32 hp, .of_pop h h32 hp ⟨rfl, rfl, rfl, rfl, rfl, rfl, rfl⟩
      ⟨rfl, by rw [he], by rw [he]⟩ ?_ (.inr ?_), fun _ => rfl⟩
    · intro hi
      simp only at hi
      split at hi <;> cases hi
    · exact advances_of_standsAt h' h32 (standsAt_body h4 h32 rfl rfl) rfl rfl rfl
  · by_cases hc : runningChecksumOk s.eng.sum s.eng.fbuf = true
    · exact ⟨0, _, engineStep_accepted hf hc,
        ⟨popped_of_same ⟨rfl, rfl, rfl, rfl, rfl, rfl, rfl⟩, Nat.zero_le _, rfl, .inl ⟨rfl, .inl rfl⟩⟩,
        nofun⟩
    · have outside := failedAttempt_sameOutside s
      have ⟨_, _, _, _, schedule, _⟩ := outside
      exact ⟨0, _, engineStep_rejected hf (Bool.eq_false_iff.mpr hc),
        ⟨popped_of_same outside, Nat.zero_le _, schedule,
          outcome_of_keepsOutputs (failedAttempt_keepsOutputs s) failedAttempt_result
            (failedAttempt_advances h (by decide))⟩,
        nofun⟩

/-! ### The whole call -/

/-- `m` steps with `n` pops lead to the end of the call (R126). -/
structure EndsIn (m n : Nat) (s t : State) : Prop where
  steps : run m s = .next t
  pops  : popped n s t
  ended : callEnded s t

/-- A step that leaves the telemetry buffer alone, before the rest of the call. -/
theorem EndsIn.cons {m n n' : Nat} {s u t : State} (first : step s = .next u) (hp : popped n s u)
    (htb : u.eng.tbuf = s.eng.tbuf) (htv : u.eng.tbufValid = s.eng.tbufValid)
    (h : EndsIn m n' u t) : EndsIn (m + 1) (n + n') s t where
  steps := (run_succ m first).trans h.steps
  pops := hp.trans h.pops
  ended := by
    obtain ⟨-, -, hi, hr⟩ := h
    rw [htb, htv] at hr
    exact ⟨hi, hr⟩

/-- From any byte of a candidate the call ends within its steps and pops left, and takes a pop before it
evaluates. -/
theorem call_ends (m : Nat) {k : Nat} {s : State} (h : s.schedule = []) (hc : InCall k s.eng)
    (hm : stepsLeft k s.eng ≤ m) :
    ∃ m' n t, EndsIn m' n s t ∧ m' ≤ m ∧ n ≤ popsLeft k s.eng ∧ (k < 32 → 1 ≤ n) := by
  induction m generalizing k s with
  | zero =>
    have := one_le_stepsLeft hc
    omega
  | succ m ih =>
    obtain ⟨n, u, turn, call, one⟩ := engineStep_inCall hc
    have first := step_searches h (standsAt_searches hc.place) turn
    have pop (hk : k < 32) (n' : Nat) : 1 ≤ n + n' := by have := one hk; omega
    rcases call.outcome with ended | ⟨⟨j, hj, fewer, shorter⟩, htb, htv⟩
    · exact ⟨1, n, u, ⟨run_succ 0 first, call.pops, ended⟩, by omega, call.allowed, fun hk => pop hk 0⟩
    · obtain ⟨m', n', t, rest, hm', hn', -⟩ := ih (call.schedule.trans h) hj (by omega)
      exact ⟨m' + 1, n + n', t, .cons first call.pops htb htv rest, by omega, by omega,
        fun hk => pop hk n'⟩

/-- From `SYNC_START`, too few bytes end the call at once, and otherwise the check leaves 96 pops more than
there are bytes, and four evaluations (R120, R126). -/
theorem syncFrame_ends {s : State} (h : s.schedule = []) (hf : s.eng.fsm = .syncStart) :
    ∃ m n t, EndsIn m n s t ∧ m ≤ s.rxCount + 101 ∧ n ≤ s.rxCount + 96 ∧
      (32 ≤ s.rxCount → 1 ≤ n) := by
  have ready : engineReady s = true := by simp [engineReady, engineEnabled, hf]
  by_cases hn : s.rxCount < 32
  · have last := step_of_engineStep h ready (engineStep_tooFew hf hn)
    exact ⟨1, 0, _, ⟨run_succ 0 last, popped_of_same ⟨rfl, rfl, rfl, rfl, rfl, rfl, rfl⟩,
      rfl, .inr ⟨rfl, rfl, rfl⟩⟩, by omega, by omega, by omega⟩
  · have first := step_of_engineStep h ready (engineStep_searching hf (Nat.not_lt.mp hn))
    obtain ⟨m, n, t, rest, hm, allowed, pop⟩ := call_ends (s.rxCount + 100) (k := 0)
      (s := { s with
        eng.avail := s.rxCount, eng.skip := 0, eng.fail := 0, eng.hidx := 0, eng.fsm := .syncHdr })
      h ⟨.inl ⟨rfl, rfl, by decide⟩, Nat.zero_le _, Nat.zero_le _⟩
      (by simp only [stepsLeft, popsLeft]; omega)
    simp only [popsLeft] at allowed
    have unpopped : popped 0 s _ := popped_of_same ⟨rfl, rfl, rfl, rfl, rfl, rfl, rfl⟩
    exact ⟨m + 1, 0 + n, t, .cons first unpopped rfl rfl rest, by omega, by omega,
      fun _ => by have := pop (by decide); omega⟩

/-- Settles O47: the bounds of `syncFrame_ends`, whose pops are the ones between the two states. -/
theorem syncFrameTerminates : Obligations.SyncFrameTerminates := by
  intro s h hf _
  obtain ⟨m, n, t, call, hm, hn, pop⟩ := syncFrame_ends h hf
  obtain ⟨idle, result⟩ := call.ended
  have pops : popsBetween s t = n := popsBetween_of_popped call.pops
  refine ⟨m, t, call.steps, hm, idle, pops ▸ hn, pops ▸ pop, result.imp_right And.left, fun h4 => ?_⟩
  rcases result with h0 | ⟨-, same⟩
  · exact absurd (h0.symm.trans h4) (by decide)
  · exact same

end Sys2Proof.Proofs
end

section
/-! The extraction (spec/42_synchronizer.md R130, R131) and what the telemetry buffer holds after it. -/

namespace Sys2Proof.Proofs

open Sys2Proof.Machine

/-- The state after an extraction from `s` (R130). -/
def extracted (s : State) : State :=
  State.complete
    { s.clearFlag TBUF_VALID with
      regs.frameOut := s.eng.tbuf
      eng.tbuf := Vector.replicate 32 0x00
      eng.tbufValid := false } .checkOk

/-- `EXTRACT` always has its step (R31, R130). -/
theorem engineStep_extract {s : State} (h : s.eng.fsm = .extract) :
    engineStep s = .next (extracted s) :=
  (engineStep_enabled (by simp [engineEnabled, h])).trans
    (by simp [engineAction, h, extractStep, extracted])

/-- Settles O48: the issue (`exec_of_idle`) and the turn of `EXTRACT`; of `STATUS` the two together clear
`TBUF_VALID` and change `BUSY` and `DONE`. -/
theorem extractCopiesAndZeroes : Obligations.ExtractCopiesAndZeroes := by
  intro s hb
  refine ⟨_, _, exec_of_idle .extractFrame hb, engineStep_extract rfl, rfl, ?_, ?_, ?_, ?_⟩
  · simp [extracted]
  · simp [extracted]
  · simp [extracted, TBUF_VALID]
  · intro b hb h0 h1 h4
    simp [extracted, hb, h0, h1, h4]

/-- A step that leaves the tag clear leaves an all-zero telemetry buffer all zero: a validated frame sets
the tag (O58). -/
theorem step_keeps_zeros {s t : State} (h : step s = .next t)
    (zeros : s.eng.tbuf = Vector.replicate 32 0x00) (tag : t.eng.tbufValid = false) :
    t.eng.tbuf = Vector.replicate 32 0x00 := by
  rcases step_cases h with ⟨a, l, p, ha⟩ | ⟨l, rfl⟩
  · rcases telemetryBufferWriters a _ t ha with ⟨kept, -⟩ | ⟨-, -, -, -, valid⟩ | ⟨-, -, zeroed, -⟩ |
      ⟨-, zeroed, -⟩
    · exact kept.trans zeros
    · exact absurd (tag.symm.trans valid) Bool.false_ne_true
    · exact zeroed
    · exact zeroed
  · exact zeros

/-- Over a run with the tag clear throughout, an all-zero telemetry buffer stays all zero. -/
theorem run_keeps_zeros (n : Nat) {s t : State} (h : run n s = .next t)
    (zeros : s.eng.tbuf = Vector.replicate 32 0x00)
    (tag : ∀ (m : Nat) (w : State), m ≤ n → run m s = .next w → w.eng.tbufValid = false) :
    t.eng.tbuf = Vector.replicate 32 0x00 := by
  induction n generalizing s with
  | zero => cases h; exact zeros
  | succ n ih =>
    rw [run] at h
    split at h
    next s' first =>
      have later (m : Nat) (w : State) (hm : m ≤ n) (hw : run m s' = .next w) :
          w.eng.tbufValid = false := tag (m + 1) w (by omega) ((run_succ m first).trans hw)
      exact ih h (step_keeps_zeros first zeros (later 0 s' (Nat.zero_le n) rfl)) later
    next => cases h
    next => cases h

/-- Settles O49: the first extraction leaves zeros, which stay (`run_keeps_zeros`) until the second copies
them. -/
theorem secondExtractionYieldsZeros : Obligations.SecondExtractionYieldsZeros := by
  intro s s₁ t u v l hf first hrun tag hb issue second
  cases (engineStep_extract hf).symm.trans first
  have zeros := run_keeps_zeros l.length hrun rfl tag
  cases (exec_of_idle .extractFrame hb).symm.trans issue
  cases (engineStep_extract rfl).symm.trans second
  exact ⟨zeros, rfl⟩

end Sys2Proof.Proofs
end

section
/-! Ticks outside the waits (spec/60_exceptions.md R141), and the absence of any condition that stops the machine
(R140): under the invariant no fault of the Engine is raised, and nobody else's step raises one. -/

namespace Sys2Proof.Proofs

open Sys2Proof.Machine

/-! ### Ticks -/

/-- A tick outside the two waits, or at the end of the counter's range, does nothing (R141). -/
theorem agentStep_tick_still {s : State}
    (h : 65536 ≤ s.eng.w ∨ (s.eng.fsm ≠ .settle ∧ s.eng.fsm ≠ .rxWait)) :
    agentStep .tick s = .next s := by
  refine congrArg _ (if_neg ?_)
  rintro ⟨waits, below⟩
  rcases h with saturated | ⟨notSettle, notRxWait⟩
  · omega
  · exact waits.elim notSettle notRxWait

/-- Settles O24: the tick that counts (`agentStep_tick_counts`) and the tick that does not. -/
theorem tickCountsInWaitsOnly : Obligations.TickCountsInWaitsOnly := fun _ =>
  ⟨agentStep_tick_counts, agentStep_tick_still⟩

/-! ### The Engine's actions, each under the part of the invariant it needs -/

section
variable {s : State} {i : Instr}

theorem responseDone_answers (hop : s.running = some i) (hreads : readsResponse i = true)
    (k : ResultKind) : ∃ t, responseDone k s = .next t := by
  obtain ⟨t, hd⟩ := doneOf_of_readsResponse hreads k (recordResponse k s)
  exact ⟨t, responseDone_eq hop hd⟩

/-- Only an operation that reads a response visits the reader's two states (R86, R92). -/
theorem readsResponse_of_visits {f : Fsm} (hf : f = .rxWait ∨ f = .respEval)
    (hv : visits i f = true) : readsResponse i = true := by
  cases i with
  | readResponse | queryDust | enterSleep | exitSleep => rfl
  | sendCommand | setUploadMode | syncFrame | extractFrame => rcases hf with rfl | rfl <;> cases hv

theorem txPushStep_answers (hx : s.eng.txidx < 9) : ∃ t, txPushStep s = .next t := by
  unfold txPushStep
  rw [Vector.getElem?_eq_getElem hx]
  exact ⟨_, rfl⟩

/-- Every operation that visits `TX_FLUSH` has a continuation there (R83, R86). -/
theorem txFlushStep_answers (hop : s.running = some i) (hv : visits i .txFlush = true) :
    ∃ t, txFlushStep s = .next t := by
  cases i with
  | sendCommand => exact ⟨_, txFlushStep_sent (.inl hop)⟩
  | setUploadMode => exact ⟨_, txFlushStep_sent (.inr hop)⟩
  | queryDust => exact ⟨_, txFlushStep_query hop⟩
  | enterSleep => exact ⟨_, txFlushStep_sleep (.inl hop)⟩
  | exitSleep => exact ⟨_, txFlushStep_sleep (.inr hop)⟩
  | readResponse | syncFrame | extractFrame => cases hv

/-- Every operation that visits `SETTLE` has a settle delay (R83, R86). -/
theorem settleStep_answers (hop : s.running = some i) (hv : visits i .settle = true) :
    ∃ t, settleStep s = .next t := by
  obtain ⟨n, ticks⟩ : ∃ n, settleTicks s = some n := by
    cases i with
    | enterSleep => exact ⟨20, settleTicks_of_running (.inl ⟨hop, rfl⟩)⟩
    | exitSleep => exact ⟨45, settleTicks_of_running (.inr ⟨hop, rfl⟩)⟩
    | sendCommand | readResponse | queryDust | setUploadMode | syncFrame | extractFrame => cases hv
  unfold settleStep
  rw [ticks]
  exact ⟨_, rfl⟩

theorem rxWaitStep_answers (hx : s.eng.rxidx < 9) (hop : s.running = some i)
    (hreads : readsResponse i = true) : ∃ t, rxWaitStep s = .next t := by
  unfold rxWaitStep
  split
  · exact ⟨_, dif_pos hx⟩
  · exact responseDone_answers hop hreads .timeoutError

theorem syncStartStep_answers (s : State) : ∃ t, syncStartStep s = .next t := by
  unfold syncStartStep
  split <;> exact ⟨_, rfl⟩

theorem syncHdrStep_answers (hx : s.eng.hidx ≤ 3) : ∃ t, syncHdrStep s = .next t := by
  unfold syncHdrStep
  rw [dif_pos (Nat.lt_succ_of_le hx)]
  split <;> exact ⟨_, rfl⟩

theorem syncBodyStep_answers (hx : s.eng.bidx < 32) : ∃ t, syncBodyStep s = .next t :=
  ⟨_, dif_pos (by rwa [rxPopNB_eng])⟩

theorem syncEvalStep_answers (s : State) : ∃ t, syncEvalStep s = .next t := by
  unfold syncEvalStep
  split <;> exact ⟨_, rfl⟩

end

/-! ### The agents -/

/-- Under the invariant the Engine's action is no fault, enabled or not: an index it uses lies inside its
buffer (R95), and a running operation is in a state it visits (R86), which is never an unused one. -/
theorem engineAction_answers {s : State} (hi : MachineInv s) : ∃ t, engineAction s = .next t := by
  have counters := hi.counters
  have place (hne : s.eng.fsm ≠ .idle) := hi.visiting hne
  unfold engineAction
  cases hf : s.eng.fsm with
  | idle | rxClear | extract => exact ⟨_, rfl⟩
  | txPush => exact txPushStep_answers (counters.push hf)
  | txFlush =>
    obtain ⟨i, hop, hv⟩ := place (by simp [hf])
    exact txFlushStep_answers hop (hf ▸ hv)
  | settle =>
    obtain ⟨i, hop, hv⟩ := place (by simp [hf])
    exact settleStep_answers hop (hf ▸ hv)
  | rxWait =>
    obtain ⟨i, hop, hv⟩ := place (by simp [hf])
    exact rxWaitStep_answers (counters.wait hf) hop (readsResponse_of_visits (.inl hf) hv)
  | respEval =>
    obtain ⟨i, hop, hv⟩ := place (by simp [hf])
    exact responseDone_answers hop (readsResponse_of_visits (.inr hf) hv) _
  | syncStart => exact syncStartStep_answers s
  | syncHdr => exact syncHdrStep_answers counters.hidx
  | syncBody => exact syncBodyStep_answers (counters.body hf).2
  | syncEval => exact syncEvalStep_answers s
  | unused n =>
    obtain ⟨i, -, hv⟩ := place (by simp [hf])
    rw [hf, visits_unused] at hv
    cases hv

/-- The Engine's turn is its action or a hold (R82). -/
theorem engineStep_answers {s : State} (hi : MachineInv s) : ∃ t, engineStep s = .next t := by
  cases hr : engineReady s with
  | true => exact engineStep_ready s hr ▸ engineAction_answers hi
  | false => exact ⟨s, engineStep_hold s hr⟩

/-- An issue starts its operation or is refused with a flag (R80, R81). -/
theorem exec_answers (i : Instr) (s : State) : ∃ t, exec i s = .next t := by
  rw [exec_eq_issueOp]
  cases hb : s.busy with
  | false => exact ⟨_, issueOp_idle i _ s hb⟩
  | true => exact ⟨_, issueOp_busy i _ s hb⟩

/-- A host write answers in every state, and an undefined opcode is a flag and no stop (R62, R81). -/
theorem hostWrite_answers (a v : Byte) (s : State) : ∃ t, hostWrite a v s = .next t := by
  unfold hostWrite writeOp
  split
  · split
    · exact exec_answers _ s
    · exact ⟨_, rfl⟩
  · exact ⟨_, rfl⟩

/-- Whichever agent moves, a state that meets the invariant has a next state (R140). -/
theorem agentStep_answers (a : AgentStep) {s : State} (hi : MachineInv s) :
    ∃ t, agentStep a s = .next t := by
  cases a with
  | engine => exact engineStep_answers hi
  | hostWrite addr v => exact hostWrite_answers addr v s
  | hostRead | rxProduce | txDrain | tick | reset => exact ⟨_, rfl⟩

/-! ### The step -/

theorem programStep_answers {s : State} (hi : MachineInv s) : ∃ t, programStep s = .next t := by
  cases hp : s.program with
  | nil => exact ⟨s, programStep_nil s hp⟩
  | cons op rest =>
    cases op with
    | bus t =>
      rw [programStep_bus s t rest hp]
      exact agentStep_answers _ (hi.congr rfl rfl hi.rxDepth hi.txDepth)
    | waitIdle => exact ⟨_, programStep_waitIdle s rest hp⟩
    | rx b => exact ⟨_, programStep_rx s b rest hp⟩
    | tick => exact ⟨_, programStep_tick s rest hp⟩

theorem turnStep_answers (u : Turn) {s : State} (hi : MachineInv s) :
    ∃ t, turnStep u s = .next t := by
  cases u with
  | agent a => exact agentStep_answers a hi
  | program => exact programStep_answers hi

/-- With an empty schedule the Engine, the TX drain or the host program moves, or nobody (D43). -/
theorem step_eager_answers {s : State} (hi : MachineInv s) (h : s.schedule = []) :
    ∃ t, step s = .next t := by
  cases hr : engineReady s with
  | true => exact step_engine s h hr ▸ engineStep_answers hi
  | false =>
    by_cases ht : s.tx = []
    · exact step_quiet s h hr ht ▸ programStep_answers hi
    · exact ⟨_, step_drain s h hr ht⟩

/-- Settles O54: the turn of the step is the schedule's next, which the invariant does not speak of, or the
eager one; either answers a next state. -/
theorem noStepStopsTheMachine : Obligations.NoStepStopsTheMachine := by
  intro s hi
  cases hs : s.schedule with
  | nil => exact step_eager_answers hi hs
  | cons u rest =>
    rw [step_cons s u rest hs]
    exact turnStep_answers u (hi.congr rfl rfl hi.rxDepth hi.txDepth)

end Sys2Proof.Proofs
end

section
/-! Reset and the visibility of results (spec/70_reset_and_hazards.md R160 to R162, R164; spec/10_state.md R33): the
value of every element after a Reset step, and the Engine's moves that end no operation. -/

namespace Sys2Proof.Proofs

open Sys2Proof.Machine

/-! ### No partial result -/

theorem rxPopNB_result (s : State) : s.rxPopNB.2.regs.result = s.regs.result := by rw [rxPopNB_regs]

theorem byteSkip_keepsResult {s : State} (ht : (byteSkip s).eng.fsm ≠ .idle) :
    (byteSkip s).regs.result = s.regs.result := by
  rcases byteSkip_cases s with ⟨-, e⟩ | ⟨-, e⟩
  · rw [e]
  · exact absurd (by rw [e]; rfl) ht

theorem failedAttempt_keepsResult {s : State} (ht : (failedAttempt s).eng.fsm ≠ .idle) :
    (failedAttempt s).regs.result = s.regs.result := by
  rcases failedAttempt_cases s with ⟨-, e⟩ | ⟨-, e⟩
  · rw [e]
  · exact absurd (by rw [e]; rfl) ht

theorem headerStart_keepsResult {b : Byte} {s : State} (ht : (headerStart b s).eng.fsm ≠ .idle) :
    (headerStart b s).regs.result = s.regs.result := by
  by_cases hb : b = 0x42
  · rw [headerStart_match hb]
  · rw [headerStart_mismatch hb] at ht ⊢
    exact byteSkip_keepsResult ht

theorem headerNext_keepsResult {k : Fin 4} {b : Byte} {s : State}
    (ht : (headerNext k b s).eng.fsm ≠ .idle) : (headerNext k b s).regs.result = s.regs.result := by
  by_cases hb : b = Config.HDR[k]
  · obtain h3 | h3 : k.val < 3 ∨ k.val = 3 := by omega
    · rw [headerNext_match hb h3]
    · rw [headerNext_last hb h3]
  · rw [headerNext_mismatch hb] at ht ⊢
    exact failedAttempt_keepsResult ht

/-- `RESULT` is written by `complete` alone, which ends in `IDLE` (R84). -/
theorem engineMove_keepsResult {s t : State} (m : EngineMove s t) (ht : t.eng.fsm ≠ .idle) :
    t.regs.result = s.regs.result := by
  cases m with
  | sent | tooFew | accepted | extracted => exact absurd rfl ht
  | timedOut t i _ _ _ _ hd | evaluated t i _ _ _ _ hd => exact absurd (doneOf_resp hd).1 ht
  | headerByte => exact (headerStart_keepsResult ht).trans (rxPopNB_result s)
  | headerLater => exact (headerNext_keepsResult ht).trans (rxPopNB_result s)
  | bodyRead => exact rxPopNB_result s
  | rejected => exact failedAttempt_keepsResult ht
  | hold | cleared | pushed | queryFlushed | sleepFlushed | settled | received | searching => rfl

/-- `TBUF_VALID` changes at an accepted frame and an extraction, and both end in `IDLE` (R124, R130). -/
theorem engineStatus_keepsTag {s t : State} (h : EngineStatus s t) (ht : t.eng.fsm ≠ .idle) :
    bit t.regs.status TBUF_VALID = bit s.regs.status TBUF_VALID := by
  cases h with
  | same h => rw [h]
  | underflow _ _ h => simp [h, bit_setBit _ _ TBUF_VALID (by decide)]
  | completed _ hidle => exact absurd hidle ht
  | underflowed _ hidle => exact absurd hidle ht
  | accepted _ hidle => exact absurd hidle ht
  | extracted _ hidle => exact absurd hidle ht

/-- An Engine step that ends no operation writes no result (R164): the moves that write one all end in
`IDLE`. -/
theorem engineStep_sameResults {s t : State} (h : engineStep s = .next t) (ht : t.eng.fsm ≠ .idle) :
    sameResults s t := by
  cases engineStep_output h with
  | kept t keeps =>
    obtain ⟨hr, htb, htv⟩ := keeps
    exact ⟨engineMove_keepsResult (engineStep_move h) ht, by rw [hr], samePM_of_regs hr, by rw [hr],
      engineStatus_keepsTag (engineStep_status h) ht, htb, htv⟩
  | timedOut t i _ _ hd | evaluated t i _ _ _ _ hd => exact absurd (doneOf_resp hd).1 ht
  | accepted | extracted => exact absurd rfl ht

/-- Settles O55: the agents around the Engine write no result (`agentStep_sameResults`); an Engine step that
does not end in `IDLE` writes none either, and an idle Engine holds. -/
theorem resultsChangeAtCompletionOnly : Obligations.ResultsChangeAtCompletionOnly := by
  intro a s t h hr noEnd
  by_cases he : a = .engine
  · subst he
    rcases noEnd with ht | hs
    · exact engineStep_sameResults h ht
    · have hold : agentStep .engine s = .next s := engineStep_hold s (engineReady_idle s hs)
      cases hold.symm.trans h
      exact sameResults_refl s
  · exact agentStep_sameResults h he hr

/-! ### Reset -/

/-- Every register but the timeout pair reads 0x00 after a reset (R20, R161). -/
theorem reset_read {r : RegName} (hH : r ≠ .timeoutH) (hL : r ≠ .timeoutL) :
    Regs.reset.read r = 0x00 := by
  cases r with
  | timeoutH => exact absurd rfl hH
  | timeoutL => exact absurd rfl hL
  | resp i => exact Vector.getElem_replicate i.isLt
  | frameOut i => exact Vector.getElem_replicate i.isLt
  | _ => rfl

/-- Every address but the timeout pair's reads 0x00 after a reset, mapped or not (R42, R161). -/
theorem applyReset_memRead (s : State) {a : Byte} (hH : a.toNat ≠ 0x03) (hL : a.toNat ≠ 0x04) :
    s.applyReset.memRead a = 0x00 := by
  cases ha : RegName.ofAddr a with
  | none => exact memRead_unmapped _ ha
  | some r =>
    obtain rfl := addr_of_ofAddr a r ha
    rw [memRead_addr, applyReset_regs]
    exact reset_read (by rintro rfl; exact hH rfl) (by rintro rfl; exact hL rfl)

/-- A reset changes nothing outside the block (R160). -/
theorem applyReset_sameOutside (s : State) : sameOutside s s.applyReset := by simp [sameOutside]

/-- Settles O50: the step is `applyReset` in every state, whose registers and internal elements are those of
`Regs.reset` and `Engine.reset`; the timeout pair holds the two bytes of `TIMEOUT_RESET`. -/
theorem resetRestoresEveryElement : Obligations.ResetRestoresEveryElement := by
  intro s
  refine ⟨s.applyReset, rfl, fun _ => applyReset_memRead s, rfl,
    hiByte_loByte_toNat Config.TIMEOUT_RESET, ?_⟩
  rw [applyReset_eng]
  exact ⟨rfl, rfl, rfl, rfl, rfl, rfl, rfl, rfl, rfl, rfl, rfl, rfl, rfl, rfl, rfl, rfl, rfl,
    applyReset_sameOutside s⟩

/-- Settles O51: the initial state holds the reset values already, so a Reset step leaves it. -/
theorem initialStateIsAfterReset : Obligations.InitialStateIsAfterReset := ⟨rfl, rfl, rfl, rfl⟩

end Sys2Proof.Proofs
end
